-- ==== Sys2Proof/Word.lean ====
section
/-! DEFINITION. The widths of the unit's values (spec/00_scope.md R6, R7): words, halves, command words, register numbers. -/

namespace Sys2Proof

/-- The content of a value register, of `din` and of `dout`: 64 bits (R6 `XLEN`, R20, R40). -/
abbrev Word := BitVec 64

/-- One half of a word, and the operand of a 32-bit command: 32 bits (R84, R197). -/
abbrev Half := BitVec 32

/-- A command word `cw`: 32 bits (R6 `CWLEN`, R50). -/
abbrev CommandWord := BitVec 32

/-- A register number: a 4-bit unsigned number 0..15, each naming an existing register (R20, R54). -/
abbrev Reg := Fin 16

/-- The immediate of format I: 16 bits (R51, R53). -/
abbrev Imm16 := BitVec 16

end Sys2Proof
end

