-- ==== Sys2Proof/Syntax.lean ====
section
/-! DEFINITION. The syntax of a command: one constructor per row of the opcode map (spec/30_encoding.md R55), and what the
host presents to the unit (spec/20_memory.md R40). -/

namespace Sys2Proof

/-- The 59 commands (R55), each with the fields it uses and no others (R52): `rd` the destination, `ra` the receiver, `rb` the
operand or the shift amount, `rc` the third source, `imm` the immediate (R51). Every term is well formed: a register field has
sixteen values and "all sixteen values are legal" (R54), and every 16-bit immediate is legal (R53). -/
inductive Instr where
  -- bit primitives (40_bit_primitives.md)
  /-- `CLZ32`, R85. -/
  | clz32 (rd : Reg) (ra : Reg)
  /-- `CLZ64`, R86. -/
  | clz64 (rd : Reg) (ra : Reg)
  /-- `CTZ32`, R87. -/
  | ctz32 (rd : Reg) (ra : Reg)
  /-- `CTZ64`, R88. -/
  | ctz64 (rd : Reg) (ra : Reg)
  /-- `POPCNT32`, R89. -/
  | popcnt32 (rd : Reg) (ra : Reg)
  /-- `POPCNT64`, R90. -/
  | popcnt64 (rd : Reg) (ra : Reg)
  -- shifts and rotates (41_shift_rotate.md)
  /-- `SHL32`, R108. -/
  | shl32 (rd : Reg) (ra : Reg) (rb : Reg)
  /-- `SHR32`, R109. -/
  | shr32 (rd : Reg) (ra : Reg) (rb : Reg)
  /-- `SAR32`, R110. -/
  | sar32 (rd : Reg) (ra : Reg) (rb : Reg)
  /-- `ROL32`, R111. -/
  | rol32 (rd : Reg) (ra : Reg) (rb : Reg)
  /-- `ROR32`, R112. -/
  | ror32 (rd : Reg) (ra : Reg) (rb : Reg)
  /-- `SHL64`, R113. -/
  | shl64 (rd : Reg) (ra : Reg) (rb : Reg)
  /-- `SHR64`, R114. -/
  | shr64 (rd : Reg) (ra : Reg) (rb : Reg)
  /-- `SAR64`, R115. -/
  | sar64 (rd : Reg) (ra : Reg) (rb : Reg)
  /-- `ROL64`, R116. -/
  | rol64 (rd : Reg) (ra : Reg) (rb : Reg)
  /-- `ROR64`, R117. -/
  | ror64 (rd : Reg) (ra : Reg) (rb : Reg)
  -- carry adder (42_carry_adder.md)
  /-- `ADC`, R133. -/
  | adc (rd : Reg) (ra : Reg) (rb : Reg)
  /-- `SBB`, R134. -/
  | sbb (rd : Reg) (ra : Reg) (rb : Reg)
  /-- `CLC`, R135. -/
  | clc
  /-- `STC`, R136. -/
  | stc
  /-- `GETC`, R137. -/
  | getc (rd : Reg)
  /-- `PUTC`, R138. -/
  | putc (ra : Reg)
  -- int64-alu (43_int64_alu.md)
  /-- `NEG`, R151. -/
  | neg (rd : Reg) (ra : Reg)
  /-- `NOT`, R152. -/
  | not (rd : Reg) (ra : Reg)
  /-- `ABS`, R153. -/
  | abs (rd : Reg) (ra : Reg)
  /-- `ADD`, R154. -/
  | add (rd : Reg) (ra : Reg) (rb : Reg)
  /-- `SUB`, R155. -/
  | sub (rd : Reg) (ra : Reg) (rb : Reg)
  /-- `RSUB`, R156. -/
  | rsub (rd : Reg) (ra : Reg) (rb : Reg)
  /-- `AND`, R157. -/
  | and (rd : Reg) (ra : Reg) (rb : Reg)
  /-- `OR`, R158. -/
  | or (rd : Reg) (ra : Reg) (rb : Reg)
  /-- `XOR`, R159. -/
  | xor (rd : Reg) (ra : Reg) (rb : Reg)
  /-- `ISZERO`, R171. -/
  | iszero (rd : Reg) (ra : Reg)
  /-- `EQ`, R172. -/
  | eq (rd : Reg) (ra : Reg) (rb : Reg)
  /-- `LT`, R173. -/
  | lt (rd : Reg) (ra : Reg) (rb : Reg)
  /-- `GT`, R174. -/
  | gt (rd : Reg) (ra : Reg) (rb : Reg)
  /-- `ILT`, R175. -/
  | ilt (rd : Reg) (ra : Reg) (rb : Reg)
  /-- `IGT`, R176. -/
  | igt (rd : Reg) (ra : Reg) (rb : Reg)
  /-- `CMP`, R178. -/
  | cmp (rd : Reg) (ra : Reg) (rb : Reg)
  /-- `SCMP`, R179. -/
  | scmp (rd : Reg) (ra : Reg) (rb : Reg)
  -- construction, accessors, transfer (44_int64_move.md)
  /-- `CLR`, R191. -/
  | clr (rd : Reg)
  /-- `MOV`, R192. -/
  | mov (rd : Reg) (ra : Reg)
  /-- `LI`, R193. -/
  | li (rd : Reg) (imm : Imm16)
  /-- `LIS`, R194. -/
  | lis (rd : Reg) (imm : Imm16)
  /-- `LDV`, R195. -/
  | ldv (rd : Reg)
  /-- `RDV`, R196. -/
  | rdv (ra : Reg)
  /-- `MKU`, R198. -/
  | mku (rd : Reg) (ra : Reg) (rb : Reg)
  /-- `MKS`, R199. -/
  | mks (rd : Reg) (ra : Reg) (rb : Reg)
  /-- `SIGN`, R201. -/
  | sign (rd : Reg) (ra : Reg)
  /-- `GHI`, R202. -/
  | ghi (rd : Reg) (ra : Reg)
  /-- `GLO`, R203. -/
  | glo (rd : Reg) (ra : Reg)
  /-- `SHI`, R204. -/
  | shi (rd : Reg) (ra : Reg)
  /-- `SLO`, R205. -/
  | slo (rd : Reg) (ra : Reg)
  -- binary64 codec (45_binary64_codec.md)
  /-- `BUILD`, R228. -/
  | build (rd : Reg) (ra : Reg) (rb : Reg) (rc : Reg)
  /-- `BUILDC`, R229. -/
  | buildc (rd : Reg) (ra : Reg) (rb : Reg) (rc : Reg)
  /-- `FSIGN`, R230. -/
  | fsign (rd : Reg) (ra : Reg)
  /-- `FMANT`, R231. -/
  | fmant (rd : Reg) (ra : Reg)
  /-- `FEXP`, R232. -/
  | fexp (rd : Reg) (ra : Reg)
  /-- `FEXC`, R233. -/
  | fexc (rd : Reg) (ra : Reg)
  /-- `FNRM`, R234. -/
  | fnrm (rd : Reg) (ra : Reg)
deriving DecidableEq, Repr

/-- The mnemonic of a command, as R55 spells it. -/
def Instr.mnemonic : Instr → String
  | .clz32 _ _ => "CLZ32"
  | .clz64 _ _ => "CLZ64"
  | .ctz32 _ _ => "CTZ32"
  | .ctz64 _ _ => "CTZ64"
  | .popcnt32 _ _ => "POPCNT32"
  | .popcnt64 _ _ => "POPCNT64"
  | .shl32 _ _ _ => "SHL32"
  | .shr32 _ _ _ => "SHR32"
  | .sar32 _ _ _ => "SAR32"
  | .rol32 _ _ _ => "ROL32"
  | .ror32 _ _ _ => "ROR32"
  | .shl64 _ _ _ => "SHL64"
  | .shr64 _ _ _ => "SHR64"
  | .sar64 _ _ _ => "SAR64"
  | .rol64 _ _ _ => "ROL64"
  | .ror64 _ _ _ => "ROR64"
  | .adc _ _ _ => "ADC"
  | .sbb _ _ _ => "SBB"
  | .clc => "CLC"
  | .stc => "STC"
  | .getc _ => "GETC"
  | .putc _ => "PUTC"
  | .neg _ _ => "NEG"
  | .not _ _ => "NOT"
  | .abs _ _ => "ABS"
  | .add _ _ _ => "ADD"
  | .sub _ _ _ => "SUB"
  | .rsub _ _ _ => "RSUB"
  | .and _ _ _ => "AND"
  | .or _ _ _ => "OR"
  | .xor _ _ _ => "XOR"
  | .iszero _ _ => "ISZERO"
  | .eq _ _ _ => "EQ"
  | .lt _ _ _ => "LT"
  | .gt _ _ _ => "GT"
  | .ilt _ _ _ => "ILT"
  | .igt _ _ _ => "IGT"
  | .cmp _ _ _ => "CMP"
  | .scmp _ _ _ => "SCMP"
  | .clr _ => "CLR"
  | .mov _ _ => "MOV"
  | .li _ _ => "LI"
  | .lis _ _ => "LIS"
  | .ldv _ => "LDV"
  | .rdv _ => "RDV"
  | .mku _ _ _ => "MKU"
  | .mks _ _ _ => "MKS"
  | .sign _ _ => "SIGN"
  | .ghi _ _ => "GHI"
  | .glo _ _ => "GLO"
  | .shi _ _ => "SHI"
  | .slo _ _ => "SLO"
  | .build _ _ _ _ => "BUILD"
  | .buildc _ _ _ _ => "BUILDC"
  | .fsign _ _ => "FSIGN"
  | .fmant _ _ => "FMANT"
  | .fexp _ _ => "FEXP"
  | .fexc _ _ => "FEXC"
  | .fnrm _ _ => "FNRM"

/-- A command as the host presents it: the pair (`cw`, `din`) (R40, R50). -/
structure Command where
  /-- The command word. -/
  cw : CommandWord
  /-- The data-in value, which only `LDV` reads (R40). -/
  din : Word
deriving DecidableEq, Repr

/-- What can come to the unit from outside. -/
inductive HostEvent where
  /-- The host presents a command (R50). -/
  | command (c : Command)
  /-- The reset input (R280). `lost` is the command that was being executed when reset arrived, if there was one: it "is lost:
  its response is not produced". -/
  | reset (lost : Option Command)
deriving DecidableEq, Repr

/-- The response to a command: the pair (`status`, `dout`) (R40). -/
structure Response where
  /-- 0 OK, 1 IllegalCommand, 2 RangeError, 3 InvariantViolation (R250). -/
  status : BitVec 2
  /-- The data-out value: a register's value after a successful `RDV`, else 0 (R40). -/
  dout : Word
deriving DecidableEq, Repr

end Sys2Proof
end

