-- ==== Sys2Proof/WellFormed.lean ====
section
/-! DEFINITION. Which command words are legal (spec/30_encoding.md R52, R55, R57): the mask and match columns of the opcode map,
copied from R55 and independent of the decoder and the encoder of Sys2Proof/Decode.lean. A term of `Instr` needs no check (see its
docstring); a command word does. -/

namespace Sys2Proof

/-- One row of the opcode map: the word with every used field 0, and a mask with a 1 at every opcode bit and at every bit that
must be zero (R52, R55). -/
structure OpcodeRow where
  mnemonic : String
  matchWord : CommandWord
  mask : CommandWord
deriving DecidableEq, Repr

/-- The rows of R55 for the bit primitives commands. -/
def bitRows : List OpcodeRow := [
  ⟨"CLZ32", 0x10000000#32, 0xFF00FFFF#32⟩,
  ⟨"CLZ64", 0x11000000#32, 0xFF00FFFF#32⟩,
  ⟨"CTZ32", 0x12000000#32, 0xFF00FFFF#32⟩,
  ⟨"CTZ64", 0x13000000#32, 0xFF00FFFF#32⟩,
  ⟨"POPCNT32", 0x14000000#32, 0xFF00FFFF#32⟩,
  ⟨"POPCNT64", 0x15000000#32, 0xFF00FFFF#32⟩]

/-- The rows of R55 for the shifts and rotates commands. -/
def shiftRows : List OpcodeRow := [
  ⟨"SHL32", 0x20000000#32, 0xFF000FFF#32⟩,
  ⟨"SHR32", 0x21000000#32, 0xFF000FFF#32⟩,
  ⟨"SAR32", 0x22000000#32, 0xFF000FFF#32⟩,
  ⟨"ROL32", 0x23000000#32, 0xFF000FFF#32⟩,
  ⟨"ROR32", 0x24000000#32, 0xFF000FFF#32⟩,
  ⟨"SHL64", 0x28000000#32, 0xFF000FFF#32⟩,
  ⟨"SHR64", 0x29000000#32, 0xFF000FFF#32⟩,
  ⟨"SAR64", 0x2A000000#32, 0xFF000FFF#32⟩,
  ⟨"ROL64", 0x2B000000#32, 0xFF000FFF#32⟩,
  ⟨"ROR64", 0x2C000000#32, 0xFF000FFF#32⟩]

/-- The rows of R55 for the carry adder commands. -/
def carryRows : List OpcodeRow := [
  ⟨"ADC", 0x30000000#32, 0xFF000FFF#32⟩,
  ⟨"SBB", 0x31000000#32, 0xFF000FFF#32⟩,
  ⟨"CLC", 0x38000000#32, 0xFFFFFFFF#32⟩,
  ⟨"STC", 0x39000000#32, 0xFFFFFFFF#32⟩,
  ⟨"GETC", 0x3A000000#32, 0xFF0FFFFF#32⟩,
  ⟨"PUTC", 0x3B000000#32, 0xFFF0FFFF#32⟩]

/-- The rows of R55 for the int64-alu commands. -/
def aluRows : List OpcodeRow := [
  ⟨"NEG", 0x40000000#32, 0xFF00FFFF#32⟩,
  ⟨"NOT", 0x41000000#32, 0xFF00FFFF#32⟩,
  ⟨"ABS", 0x42000000#32, 0xFF00FFFF#32⟩,
  ⟨"ADD", 0x44000000#32, 0xFF000FFF#32⟩,
  ⟨"SUB", 0x45000000#32, 0xFF000FFF#32⟩,
  ⟨"RSUB", 0x46000000#32, 0xFF000FFF#32⟩,
  ⟨"AND", 0x47000000#32, 0xFF000FFF#32⟩,
  ⟨"OR", 0x48000000#32, 0xFF000FFF#32⟩,
  ⟨"XOR", 0x49000000#32, 0xFF000FFF#32⟩,
  ⟨"ISZERO", 0x50000000#32, 0xFF00FFFF#32⟩,
  ⟨"EQ", 0x51000000#32, 0xFF000FFF#32⟩,
  ⟨"LT", 0x52000000#32, 0xFF000FFF#32⟩,
  ⟨"GT", 0x53000000#32, 0xFF000FFF#32⟩,
  ⟨"ILT", 0x54000000#32, 0xFF000FFF#32⟩,
  ⟨"IGT", 0x55000000#32, 0xFF000FFF#32⟩,
  ⟨"CMP", 0x56000000#32, 0xFF000FFF#32⟩,
  ⟨"SCMP", 0x57000000#32, 0xFF000FFF#32⟩]

/-- The rows of R55 for the construction, accessors, transfer commands. -/
def moveRows : List OpcodeRow := [
  ⟨"CLR", 0x60000000#32, 0xFF0FFFFF#32⟩,
  ⟨"MOV", 0x61000000#32, 0xFF00FFFF#32⟩,
  ⟨"LI", 0x62000000#32, 0xFF0F0000#32⟩,
  ⟨"LIS", 0x63000000#32, 0xFF0F0000#32⟩,
  ⟨"LDV", 0x64000000#32, 0xFF0FFFFF#32⟩,
  ⟨"RDV", 0x65000000#32, 0xFFF0FFFF#32⟩,
  ⟨"MKU", 0x66000000#32, 0xFF000FFF#32⟩,
  ⟨"MKS", 0x67000000#32, 0xFF000FFF#32⟩,
  ⟨"SIGN", 0x68000000#32, 0xFF00FFFF#32⟩,
  ⟨"GHI", 0x69000000#32, 0xFF00FFFF#32⟩,
  ⟨"GLO", 0x6A000000#32, 0xFF00FFFF#32⟩,
  ⟨"SHI", 0x6B000000#32, 0xFF00FFFF#32⟩,
  ⟨"SLO", 0x6C000000#32, 0xFF00FFFF#32⟩]

/-- The rows of R55 for the binary64 codec commands. -/
def codecRows : List OpcodeRow := [
  ⟨"BUILD", 0x70000000#32, 0xFF0000FF#32⟩,
  ⟨"BUILDC", 0x71000000#32, 0xFF0000FF#32⟩,
  ⟨"FSIGN", 0x72000000#32, 0xFF00FFFF#32⟩,
  ⟨"FMANT", 0x73000000#32, 0xFF00FFFF#32⟩,
  ⟨"FEXP", 0x74000000#32, 0xFF00FFFF#32⟩,
  ⟨"FEXC", 0x75000000#32, 0xFF00FFFF#32⟩,
  ⟨"FNRM", 0x76000000#32, 0xFF00FFFF#32⟩]

/-- The opcode map (R55). -/
def opcodeMap : List OpcodeRow :=
  bitRows ++ shiftRows ++ carryRows ++ aluRows ++ moveRows ++ codecRows

/-- `cw & mask = match` for one row (R52). -/
def OpcodeRow.fits (r : OpcodeRow) (w : CommandWord) : Bool := w &&& r.mask == r.matchWord

/-- The check of a command word: some row fits it (R52, R57). -/
def legalWord (w : CommandWord) : Bool := opcodeMap.any (·.fits w)

/-- The opcode is one of the 59 (R57 (a)). -/
def opcodeAssigned (w : CommandWord) : Bool :=
  opcodeMap.any fun r => w &&& 0xFF000000#32 == r.matchWord

/-- The check that R60 (c) gives the pseudo-instruction `SPLIT xs, xm, xe, xf, xa`: "`xa` must differ from `xs`, `xm`, `xe`". -/
def splitWf (xs xm xe xa : Reg) : Bool := xa != xs && xa != xm && xa != xe

end Sys2Proof
end

