-- ==== Sys2Proof/Decode.lean ====
section
/-! DEFINITION. The decoder of command words, total and rejecting by name, and after it the encoder (spec/30_encoding.md R51,
R52, R55, R57). -/

namespace Sys2Proof

/-- Why a command word is not a legal encoding; either way the unit raises IllegalCommand (R57, R251). -/
inductive Illegal where
  /-- The opcode is not one of the 59 (R57 (a)). -/
  | unassignedOpcode
  /-- A listed opcode with a 1 in a register field it does not use, in `zero8` or in `zero4` (R57 (b)). -/
  | nonzeroUnused
deriving DecidableEq, Repr

/-! ### Fields (R51) -/

/-- `opcode = cw[31:24]`. -/
def opcodeOf (w : CommandWord) : BitVec 8 := w.extractLsb' 24 8
/-- `rd = cw[23:20]`. -/
def rdOf (w : CommandWord) : BitVec 4 := w.extractLsb' 20 4
/-- `ra = cw[19:16]`; in format I these bits are `zero4`. -/
def raOf (w : CommandWord) : BitVec 4 := w.extractLsb' 16 4
/-- `rb = cw[15:12]`. -/
def rbOf (w : CommandWord) : BitVec 4 := w.extractLsb' 12 4
/-- `rc = cw[11:8]`. -/
def rcOf (w : CommandWord) : BitVec 4 := w.extractLsb' 8 4
/-- `zero8 = cw[7:0]`. -/
def zero8Of (w : CommandWord) : BitVec 8 := w.extractLsb' 0 8
/-- `imm16 = cw[15:0]`. -/
def imm16Of (w : CommandWord) : Imm16 := w.extractLsb' 0 16

/-- The register a 4-bit field names (R54). -/
def regOf (field : BitVec 4) : Reg := field.toFin
/-- The 4-bit field that names a register (R54). -/
def regBits (r : Reg) : BitVec 4 := BitVec.ofFin r

/-! ### Decoding -/

/-- How a command uses the fields of its word (R52, R55 column "uses"), with the command that the used fields make. -/
inductive Form where
  /-- No field. -/
  | plain (i : Instr)
  /-- `rd`. -/
  | rd (mk : Reg → Instr)
  /-- `ra`. -/
  | ra (mk : Reg → Instr)
  /-- `rd, ra`. -/
  | rdRa (mk : Reg → Reg → Instr)
  /-- `rd, ra, rb`. -/
  | rdRaRb (mk : Reg → Reg → Reg → Instr)
  /-- `rd, ra, rb, rc`. -/
  | rdRaRbRc (mk : Reg → Reg → Reg → Reg → Instr)
  /-- `rd, imm16`: format I. -/
  | rdImm (mk : Reg → Imm16 → Instr)

/-- The opcode map (R55): the form of each of the 59 opcodes; no other opcode is assigned (R57 (a)). -/
def formOf (opcode : BitVec 8) : Option Form :=
  match opcode with
  | 0x10#8 => some (.rdRa .clz32)
  | 0x11#8 => some (.rdRa .clz64)
  | 0x12#8 => some (.rdRa .ctz32)
  | 0x13#8 => some (.rdRa .ctz64)
  | 0x14#8 => some (.rdRa .popcnt32)
  | 0x15#8 => some (.rdRa .popcnt64)
  | 0x20#8 => some (.rdRaRb .shl32)
  | 0x21#8 => some (.rdRaRb .shr32)
  | 0x22#8 => some (.rdRaRb .sar32)
  | 0x23#8 => some (.rdRaRb .rol32)
  | 0x24#8 => some (.rdRaRb .ror32)
  | 0x28#8 => some (.rdRaRb .shl64)
  | 0x29#8 => some (.rdRaRb .shr64)
  | 0x2A#8 => some (.rdRaRb .sar64)
  | 0x2B#8 => some (.rdRaRb .rol64)
  | 0x2C#8 => some (.rdRaRb .ror64)
  | 0x30#8 => some (.rdRaRb .adc)
  | 0x31#8 => some (.rdRaRb .sbb)
  | 0x38#8 => some (.plain .clc)
  | 0x39#8 => some (.plain .stc)
  | 0x3A#8 => some (.rd .getc)
  | 0x3B#8 => some (.ra .putc)
  | 0x40#8 => some (.rdRa .neg)
  | 0x41#8 => some (.rdRa .not)
  | 0x42#8 => some (.rdRa .abs)
  | 0x44#8 => some (.rdRaRb .add)
  | 0x45#8 => some (.rdRaRb .sub)
  | 0x46#8 => some (.rdRaRb .rsub)
  | 0x47#8 => some (.rdRaRb .and)
  | 0x48#8 => some (.rdRaRb .or)
  | 0x49#8 => some (.rdRaRb .xor)
  | 0x50#8 => some (.rdRa .iszero)
  | 0x51#8 => some (.rdRaRb .eq)
  | 0x52#8 => some (.rdRaRb .lt)
  | 0x53#8 => some (.rdRaRb .gt)
  | 0x54#8 => some (.rdRaRb .ilt)
  | 0x55#8 => some (.rdRaRb .igt)
  | 0x56#8 => some (.rdRaRb .cmp)
  | 0x57#8 => some (.rdRaRb .scmp)
  | 0x60#8 => some (.rd .clr)
  | 0x61#8 => some (.rdRa .mov)
  | 0x62#8 => some (.rdImm .li)
  | 0x63#8 => some (.rdImm .lis)
  | 0x64#8 => some (.rd .ldv)
  | 0x65#8 => some (.ra .rdv)
  | 0x66#8 => some (.rdRaRb .mku)
  | 0x67#8 => some (.rdRaRb .mks)
  | 0x68#8 => some (.rdRa .sign)
  | 0x69#8 => some (.rdRa .ghi)
  | 0x6A#8 => some (.rdRa .glo)
  | 0x6B#8 => some (.rdRa .shi)
  | 0x6C#8 => some (.rdRa .slo)
  | 0x70#8 => some (.rdRaRbRc .build)
  | 0x71#8 => some (.rdRaRbRc .buildc)
  | 0x72#8 => some (.rdRa .fsign)
  | 0x73#8 => some (.rdRa .fmant)
  | 0x74#8 => some (.rdRa .fexp)
  | 0x75#8 => some (.rdRa .fexc)
  | 0x76#8 => some (.rdRa .fnrm)
  | _ => none

/-- The command a form reads from a word, once every bit it does not use is found to be zero (R52). -/
def Form.read (f : Form) (w : CommandWord) : Except Illegal Instr :=
  match f with
  | .plain i =>
    if rdOf w = 0 ∧ raOf w = 0 ∧ rbOf w = 0 ∧ rcOf w = 0 ∧ zero8Of w = 0 then .ok i else .error .nonzeroUnused
  | .rd mk =>
    if raOf w = 0 ∧ rbOf w = 0 ∧ rcOf w = 0 ∧ zero8Of w = 0 then .ok (mk (regOf (rdOf w))) else .error .nonzeroUnused
  | .ra mk =>
    if rdOf w = 0 ∧ rbOf w = 0 ∧ rcOf w = 0 ∧ zero8Of w = 0 then .ok (mk (regOf (raOf w))) else .error .nonzeroUnused
  | .rdRa mk =>
    if rbOf w = 0 ∧ rcOf w = 0 ∧ zero8Of w = 0 then .ok (mk (regOf (rdOf w)) (regOf (raOf w)))
    else .error .nonzeroUnused
  | .rdRaRb mk =>
    if rcOf w = 0 ∧ zero8Of w = 0 then .ok (mk (regOf (rdOf w)) (regOf (raOf w)) (regOf (rbOf w)))
    else .error .nonzeroUnused
  | .rdRaRbRc mk =>
    if zero8Of w = 0 then .ok (mk (regOf (rdOf w)) (regOf (raOf w)) (regOf (rbOf w)) (regOf (rcOf w)))
    else .error .nonzeroUnused
  | .rdImm mk =>
    if raOf w = 0 then .ok (mk (regOf (rdOf w)) (imm16Of w)) else .error .nonzeroUnused

/-- Decoding (R50 step 1): "A decoder needs only the 32 bits of `cw`" (R58). -/
def decode (w : CommandWord) : Except Illegal Instr :=
  match formOf (opcodeOf w) with
  | some f => f.read w
  | none => .error .unassignedOpcode

/-! ### Encoding -/

/-- A word of format R (R51): the six fields from bit 31 down, `zero8` being zero. -/
def wordR (opcode : BitVec 8) (rd ra rb rc : BitVec 4) : CommandWord := opcode ++ rd ++ ra ++ rb ++ rc ++ 0#8

/-- A word of format I (R51): `opcode`, `rd`, `zero4` and `imm16`. -/
def wordI (opcode : BitVec 8) (rd : BitVec 4) (imm : Imm16) : CommandWord := opcode ++ rd ++ 0#4 ++ imm

/-- A format R word that uses `rd, ra`. -/
def wordRdRa (opcode : BitVec 8) (rd ra : Reg) : CommandWord := wordR opcode (regBits rd) (regBits ra) 0 0

/-- A format R word that uses `rd, ra, rb`. -/
def wordRdRaRb (opcode : BitVec 8) (rd ra rb : Reg) : CommandWord :=
  wordR opcode (regBits rd) (regBits ra) (regBits rb) 0

/-- A format R word that uses `rd, ra, rb, rc`. -/
def wordRdRaRbRc (opcode : BitVec 8) (rd ra rb rc : Reg) : CommandWord :=
  wordR opcode (regBits rd) (regBits ra) (regBits rb) (regBits rc)

/-- The command word of a command (R51, R55; each row's "Encoding" in files 40 to 45). -/
def encode : Instr → CommandWord
  | .clz32 d a => wordRdRa 0x10 d a
  | .clz64 d a => wordRdRa 0x11 d a
  | .ctz32 d a => wordRdRa 0x12 d a
  | .ctz64 d a => wordRdRa 0x13 d a
  | .popcnt32 d a => wordRdRa 0x14 d a
  | .popcnt64 d a => wordRdRa 0x15 d a
  | .shl32 d a b => wordRdRaRb 0x20 d a b
  | .shr32 d a b => wordRdRaRb 0x21 d a b
  | .sar32 d a b => wordRdRaRb 0x22 d a b
  | .rol32 d a b => wordRdRaRb 0x23 d a b
  | .ror32 d a b => wordRdRaRb 0x24 d a b
  | .shl64 d a b => wordRdRaRb 0x28 d a b
  | .shr64 d a b => wordRdRaRb 0x29 d a b
  | .sar64 d a b => wordRdRaRb 0x2A d a b
  | .rol64 d a b => wordRdRaRb 0x2B d a b
  | .ror64 d a b => wordRdRaRb 0x2C d a b
  | .adc d a b => wordRdRaRb 0x30 d a b
  | .sbb d a b => wordRdRaRb 0x31 d a b
  | .clc => wordR 0x38 0 0 0 0
  | .stc => wordR 0x39 0 0 0 0
  | .getc d => wordR 0x3A (regBits d) 0 0 0
  | .putc a => wordR 0x3B 0 (regBits a) 0 0
  | .neg d a => wordRdRa 0x40 d a
  | .not d a => wordRdRa 0x41 d a
  | .abs d a => wordRdRa 0x42 d a
  | .add d a b => wordRdRaRb 0x44 d a b
  | .sub d a b => wordRdRaRb 0x45 d a b
  | .rsub d a b => wordRdRaRb 0x46 d a b
  | .and d a b => wordRdRaRb 0x47 d a b
  | .or d a b => wordRdRaRb 0x48 d a b
  | .xor d a b => wordRdRaRb 0x49 d a b
  | .iszero d a => wordRdRa 0x50 d a
  | .eq d a b => wordRdRaRb 0x51 d a b
  | .lt d a b => wordRdRaRb 0x52 d a b
  | .gt d a b => wordRdRaRb 0x53 d a b
  | .ilt d a b => wordRdRaRb 0x54 d a b
  | .igt d a b => wordRdRaRb 0x55 d a b
  | .cmp d a b => wordRdRaRb 0x56 d a b
  | .scmp d a b => wordRdRaRb 0x57 d a b
  | .clr d => wordR 0x60 (regBits d) 0 0 0
  | .mov d a => wordRdRa 0x61 d a
  | .li d imm => wordI 0x62 (regBits d) imm
  | .lis d imm => wordI 0x63 (regBits d) imm
  | .ldv d => wordR 0x64 (regBits d) 0 0 0
  | .rdv a => wordR 0x65 0 (regBits a) 0 0
  | .mku d a b => wordRdRaRb 0x66 d a b
  | .mks d a b => wordRdRaRb 0x67 d a b
  | .sign d a => wordRdRa 0x68 d a
  | .ghi d a => wordRdRa 0x69 d a
  | .glo d a => wordRdRa 0x6A d a
  | .shi d a => wordRdRa 0x6B d a
  | .slo d a => wordRdRa 0x6C d a
  | .build d a b c => wordRdRaRbRc 0x70 d a b c
  | .buildc d a b c => wordRdRaRbRc 0x71 d a b c
  | .fsign d a => wordRdRa 0x72 d a
  | .fmant d a => wordRdRa 0x73 d a
  | .fexp d a => wordRdRa 0x74 d a
  | .fexc d a => wordRdRa 0x75 d a
  | .fnrm d a => wordRdRa 0x76 d a

/-- The instruction the decoder reads from an instruction of `nbits` bits `w`, bit 0 of `w` being bit 0 of the command word. A
command word is presented whole and has no byte order (R42, R43). "All command words are 32 bits long" (R50): bits of a shorter
row above `nbits` are zero, and a longer row with a bit set above bit 31 is no command (log entry 11). -/
def decodeTableWord (nbits w : Nat) : Option Instr :=
  if w % 2 ^ nbits < 2 ^ 32 then (decode (BitVec.ofNat 32 (w % 2 ^ nbits))).toOption else none

end Sys2Proof
end

