-- ==== Sys2Proof/Config.lean ====
section
/-! DEFINITION. What the spec leaves as a parameter of the implementation (spec/00_scope.md R6). -/

namespace Sys2Proof

/-- `LAT(op)`, the finite time a command with this opcode takes (R6, R288): OPEN, so a constant with no body.
It depends on the opcode alone: "`LAT(op)` that does not depend on the operand values".
"No rule of this spec depends on it", and nothing of the model reads it (log entry 8).
Every other parameter of R6 has a value, and that value is in the types of Sys2Proof/Word.lean and Sys2Proof/Machine/State.lean. -/
opaque Config.lat (opcode : BitVec 8) : Nat

end Sys2Proof
end

