-- ==== Sys2Proof/Machine/State.lean ====
section
/-! DEFINITION. The state of the machine: the unit's registers and flag (spec/10_state.md), and the two sides of its one command
port (spec/20_memory.md R40) as plain data; the reasons a step could stop; the state after reset. -/

namespace Sys2Proof.Machine

/-- The state. "The complete state of the unit is: sixteen 64-bit registers `x[0..15]` and one 1-bit flag `CF`. 1025 bits. Nothing
else" (10_state.md; R30): the fields `x` and `cf`. The other three are the model's own and stand for the ports, on which the unit
takes commands and gives responses (R29, R40). There is no memory and no program counter (R24, R29; log entry 10). -/
structure State where
  /-- The value registers `x[0]` .. `x[15]`, none of them hardwired (R20, R21). -/
  x : Vector Word 16
  /-- The carry flag `CF` (R25). -/
  cf : Bool
  /-- The model's own: what the host and the reset input will present to the unit, first at the head (R46; log entries 1, 2, 9). -/
  pending : List HostEvent
  /-- The model's own: the value on the data-in port, which came with the command being executed (R40; log entry 4). -/
  din : Word
  /-- The model's own: the responses the unit has produced, oldest first (R40, R46; log entry 3). -/
  responses : List Response
deriving DecidableEq, Repr

/-- Why the machine stops with a fault: never. The spec's three faults stop nothing: each is a response of the unit, after which
"the unit accepts the next command as after any other" (R259), so each is a next state (`raise` in Machine/Ops.lean; log
entry 6). A type without a constructor is safe: nothing can be proved from a stop that does not happen, and R11 and R288 say that
every command completes. -/
inductive Fault where
deriving DecidableEq, Repr

/-- Why the machine gives no meaning to an instruction. -/
inductive Refusal where
  /-- Raised by an arm of `exec` whose instruction has no meaning yet, with the instruction's mnemonic; safe, since nothing is
  claimed of that instruction. No arm raises it: every instruction has its meaning. -/
  | notModelled (mnemonic : String)
deriving DecidableEq, Repr

/-- The outcome of a step of this machine. -/
abbrev Outcome := Host.Outcome State Fault Refusal

/-- The machine right after reset (R31, R280): every register 0 and `CF` 0. Nothing is presented yet and nothing has been answered
(log entries 1, 3); the data-in port holds 0 (log entry 4). -/
def State.reset : State :=
  { x := Vector.replicate 16 0#64, cf := false, pending := [], din := 0#64, responses := [] }

end Sys2Proof.Machine
end

