-- ==== Sys2Proof/Machine/Ops.lean ====
section
/-! DEFINITION. The named operations over the state: reading and writing registers and `CF` (spec/00_scope.md R9), ending a command
with its response (spec/30_encoding.md R50 step 5), raising a fault (spec/60_exceptions.md R259), and the reset event
(spec/70_reset_and_hazards.md R280). -/

namespace Sys2Proof.Machine

/-- `x[r]` (R9). -/
def State.readX (s : State) (r : Reg) : Word := s.x[r]

/-- `x[r] <- v` (R9): every register keeps what is written to it (R21). -/
def State.writeX (s : State) (r : Reg) (v : Word) : State := { s with x := s.x.set r v }

/-- `CF <- b` (R9). -/
def State.writeCF (s : State) (b : Bool) : State := { s with cf := b }

/-- The response to the command being executed goes to the host (R40, R46). -/
def State.respond (s : State) (status : BitVec 2) (dout : Word) : State :=
  { s with responses := s.responses ++ [⟨status, dout⟩] }

/-! ### How a command ends (R50 step 5) -/

/-- Success with `dout = 0` and no write. -/
def finish (s : State) : Outcome := .next (s.respond 0 0)

/-- Success, with `x[rd] <- v` the one write (R23). -/
def writeResult (rd : Reg) (v : Word) (s : State) : Outcome := finish (s.writeX rd v)

/-- Success, with `x[rd] <- v` and `CF <- c` together (R23, R133, R134). -/
def writeResultCF (rd : Reg) (v : Word) (c : Bool) (s : State) : Outcome := finish ((s.writeX rd v).writeCF c)

/-- Success, with `CF <- c` the one write (R135, R136, R138). -/
def writeFlag (c : Bool) (s : State) : Outcome := finish (s.writeCF c)

/-- Success with `dout <- v` and no write (R196): the one way to a `dout` that is not 0 (R40). -/
def sendData (v : Word) (s : State) : Outcome := .next (s.respond 0 v)

/-! ### Faults -/

/-- The three faults of the unit (R250). -/
inductive FaultKind where
  /-- The command word is not a legal encoding (R251). -/
  | illegalCommand
  /-- The exponent of a `BUILDC` is outside [-1023, 1024] (R252). -/
  | rangeError
  /-- Bit 52 of the mantissa of a `BUILDC` does not suit its exponent (R253). -/
  | invariantViolation
deriving DecidableEq, Repr

/-- The status code of a fault (R250). -/
def FaultKind.code : FaultKind → BitVec 2
  | .illegalCommand => 1
  | .rangeError => 2
  | .invariantViolation => 3

/-- `raise <Fault>` (R9, R259), the unit's fault entry: nothing is written to `x` or `CF`, the response has the fault's code and
`dout = 0`, and the command is over. "Nothing is saved anywhere, control goes nowhere". There is no return beside it: "There is no
return-from-fault command because a fault suspends nothing" (R260). -/
def raise (f : FaultKind) (s : State) : Outcome := .next (s.respond f.code 0)

/-! ### Reset -/

/-- The reset event (R280): the state of the unit is that of R31. What the host still has to present and what it has already
received are the host's (log entry 2). -/
def State.resetUnit (s : State) : State := { s with x := State.reset.x, cf := State.reset.cf }

end Sys2Proof.Machine
end

