-- ==== Sys2Proof/Machine/Operands.lean ====
section
/-! DEFINITION. The operand forms (spec/00_scope.md R8, spec/30_encoding.md R53, R54): how a command reads a register, its halves,
the shift amount and the immediate, and how a result of another width or kind becomes a register value. -/

namespace Sys2Proof.Machine

/-! ### Numbers (R8) -/

/-- `bits_64(k)` for any integer k: the word with `unsigned(v) = k mod 2^64`, the non-negative remainder. -/
def bits64 (k : Int) : Word := BitVec.ofInt 64 k

/-- `zext_64(v)`. -/
def zext64 {n : Nat} (v : BitVec n) : Word := v.setWidth 64

/-- `sext_64(v)`. -/
def sext64 {n : Nat} (v : BitVec n) : Word := v.signExtend 64

/-- `zext_64(bool(p))`: a truth value is written as 1 or 0 (R170). -/
def truth (p : Bool) : Word := zext64 (BitVec.ofBool p)

/-- `zext_64(bits_7(n))`: a bit count, 0..64 (R84). -/
def countWord (n : Nat) : Word := zext64 (BitVec.ofNat 7 n)

/-! ### Halves (R197) -/

/-- `v[63:32]`. -/
def hi32 (v : Word) : Half := v.extractLsb' 32 32

/-- `v[31:0]`. -/
def lo32 (v : Word) : Half := v.extractLsb' 0 32

/-- `{high, low}`. -/
def joinHalves (high low : Half) : Word := high ++ low

/-! ### Operands read from the state -/

/-- The low half `x[r][31:0]`: the operand of a 32-bit command, which ignores bits 63..32 (R84, R107). -/
def State.readLo (s : State) (r : Reg) : Half := lo32 (s.readX r)

/-- The shift amount: all of `x[r]` as an unsigned integer (R107). -/
def State.readAmount (s : State) (r : Reg) : Nat := (s.readX r).toNat

/-- `x[r][63]`: the sign bit of a register (R22, R228). -/
def State.readSign (s : State) (r : Reg) : Bool := (s.readX r).getLsbD 63

end Sys2Proof.Machine
end

