-- ==== Sys2Proof/Machine/BitPrimitives.lean ====
section
/-! DEFINITION. The bit primitives (spec/40_bit_primitives.md): the functions of R80 to R82, total at zero (R83), and the six commands
of R84 to R90. -/

namespace Sys2Proof.Machine

/-! ### The functions -/

/-- The number of consecutive 0 bits of `v` starting at bit n-1 and going down. -/
def zerosBelow {w : Nat} (v : BitVec w) : Nat → Nat
  | 0 => 0
  | n + 1 => if v.getLsbD n then 0 else zerosBelow v n + 1

/-- `clz_w(v)` (R80): the number of consecutive 0 bits starting at bit w-1 and going down. -/
def clz {w : Nat} (v : BitVec w) : Nat := zerosBelow v w

/-- The number of consecutive 0 bits of `v` starting at bit w-n and going up to bit w-1. -/
def zerosAbove {w : Nat} (v : BitVec w) : Nat → Nat
  | 0 => 0
  | n + 1 => if v.getLsbD (w - (n + 1)) then 0 else zerosAbove v n + 1

/-- `ctz_w(v)` (R81): the number of consecutive 0 bits starting at bit 0 and going up. -/
def ctz {w : Nat} (v : BitVec w) : Nat := zerosAbove v w

/-- `v[0] + ... + v[n-1]`. -/
def onesBelow {w : Nat} (v : BitVec w) : Nat → Nat
  | 0 => 0
  | n + 1 => onesBelow v n + (v.getLsbD n).toNat

/-- `popcnt_w(v)` (R82): the number of bits of v that are 1. -/
def popcnt {w : Nat} (v : BitVec w) : Nat := onesBelow v w

/-! ### The commands (R84) -/

/-- `CLZ32 xd, xa` (R85). -/
def execClz32 (rd ra : Reg) (s : State) : Outcome := writeResult rd (countWord (clz (s.readLo ra))) s

/-- `CLZ64 xd, xa` (R86). -/
def execClz64 (rd ra : Reg) (s : State) : Outcome := writeResult rd (countWord (clz (s.readX ra))) s

/-- `CTZ32 xd, xa` (R87). -/
def execCtz32 (rd ra : Reg) (s : State) : Outcome := writeResult rd (countWord (ctz (s.readLo ra))) s

/-- `CTZ64 xd, xa` (R88). -/
def execCtz64 (rd ra : Reg) (s : State) : Outcome := writeResult rd (countWord (ctz (s.readX ra))) s

/-- `POPCNT32 xd, xa` (R89). -/
def execPopcnt32 (rd ra : Reg) (s : State) : Outcome := writeResult rd (countWord (popcnt (s.readLo ra))) s

/-- `POPCNT64 xd, xa` (R90). -/
def execPopcnt64 (rd ra : Reg) (s : State) : Outcome := writeResult rd (countWord (popcnt (s.readX ra))) s

end Sys2Proof.Machine
end

