-- ==== Sys2Proof/Machine/Flags.lean ====
section
/-! DEFINITION. The pure functions of the carry adder, the only computations of the flag `CF` (spec/42_carry_adder.md R130 to R132;
spec/10_state.md R26). -/

namespace Sys2Proof.Machine

/-- `adc(a, b, cin)` (R130): from the exact sum s, `bits_64(s)` and the carry out `bool(s >= 2^64)`. -/
def adc (a b : Word) (cin : Bool) : Word × Bool :=
  let s := a.toNat + b.toNat + cin.toNat
  (BitVec.ofNat 64 s, decide (2 ^ 64 ≤ s))

/-- `sbb(a, b, bin)` (R131): `bits_64(d)` of the exact difference d, and the borrow out by the comparison of exact integers, in
which `unsigned(b) + unsigned(bin)` does not wrap. -/
def sbb (a b : Word) (bin : Bool) : Word × Bool :=
  (bits64 ((a.toNat : Int) - b.toNat - bin.toNat), decide (a.toNat < b.toNat + bin.toNat))

/-- Chaining (R132): `(r_i, c_(i+1)) = step(a_i, b_i, c_i)` over the limbs, least significant first, from the flag `c`; the result
limbs and the final flag. -/
def chain (limbStep : Word → Word → Bool → Word × Bool) : List (Word × Word) → Bool → List Word × Bool
  | [], c => ([], c)
  | (a, b) :: rest, c =>
    let here := limbStep a b c
    let tail := chain limbStep rest here.2
    (here.1 :: tail.1, tail.2)

end Sys2Proof.Machine
end

