-- ==== Sys2Proof/Machine/CarryAdder.lean ====
section
/-! DEFINITION. The commands of the carry-adder-64bit (spec/42_carry_adder.md R133 to R138), the only ones that touch `CF` (R26). -/

namespace Sys2Proof.Machine

/-- `ADC xd, xa, xb` (R133). -/
def execAdc (rd ra rb : Reg) (s : State) : Outcome :=
  let r := adc (s.readX ra) (s.readX rb) s.cf
  writeResultCF rd r.1 r.2 s

/-- `SBB xd, xa, xb` (R134). -/
def execSbb (rd ra rb : Reg) (s : State) : Outcome :=
  let r := sbb (s.readX ra) (s.readX rb) s.cf
  writeResultCF rd r.1 r.2 s

/-- `CLC` (R135). -/
def execClc (s : State) : Outcome := writeFlag false s

/-- `STC` (R136). -/
def execStc (s : State) : Outcome := writeFlag true s

/-- `GETC xd` (R137). -/
def execGetc (rd : Reg) (s : State) : Outcome := writeResult rd (zext64 (BitVec.ofBool s.cf)) s

/-- `PUTC xa` (R138). -/
def execPutc (ra : Reg) (s : State) : Outcome := writeFlag ((s.readX ra).getLsbD 0) s

end Sys2Proof.Machine
end

