-- ==== Sys2Proof/Machine/Codec.lean ====
section
/-! DEFINITION. The binary64-codec (spec/45_binary64_codec.md): the formats and functions of R220 to R226 and the seven commands of R228 to
R234. A double is only ever its 64-bit pattern; nothing is rounded, quietened or canonicalised (R235). -/

namespace Sys2Proof.Machine

/-! ### The pattern (R221) -/

/-- The biased exponent field `E = unsigned(p[62:52])`. -/
def biasedExponent (p : Word) : Nat := (p.extractLsb' 52 11).toNat

/-- The fraction `p[51:0]`. -/
def fraction (p : Word) : BitVec 52 := p.extractLsb' 0 52

/-- The classes of pattern (R221, R226). The unit tells them apart by E alone; which fraction goes with which name is the spec's own
"from general knowledge" and no command depends on it (log entry 13). -/
inductive PatternClass where
  | zero
  | subnormal
  | normal
  | infinity
  | nan
deriving DecidableEq, Repr

/-- The class of a pattern (R221). -/
def classify (p : Word) : PatternClass :=
  if biasedExponent p = 0 then (if fraction p = 0 then .zero else .subnormal)
  else if biasedExponent p = 2047 then (if fraction p = 0 then .infinity else .nan)
  else .normal

/-! ### Build (R222, R223) -/

/-- `build_binary64(s, m, e) = { s, bits_11(e + 1023), m[51:0] }` (R222), for any s, m and integer e, checked by nothing. -/
def buildBinary64 (s : Bool) (m : Word) (e : Int) : Word :=
  BitVec.ofBool s ++ BitVec.ofInt 11 (e + 1023) ++ m.extractLsb' 0 52

/-- `range_ok(e)` (R223). -/
def rangeOk (e : Int) : Bool := decide (-1023 ≤ e) && decide (e ≤ 1024)

/-- `invariant_ok(m, e)` (R223), which the spec defines only when `range_ok(e)` holds: bit 52 set for an exponent in
-1022..1023, clear for -1023 and 1024. -/
def invariantOk (m : Word) (e : Int) : Bool :=
  if -1022 ≤ e ∧ e ≤ 1023 then m.getLsbD 52 else !m.getLsbD 52

/-- `valid(m, e)` (R223). -/
def valid (m : Word) (e : Int) : Bool := rangeOk e && invariantOk m e

/-! ### Split (R224) -/

/-- What `split_binary64` returns. -/
structure Split where
  /-- +1 or -1. -/
  sign : Int
  mantissa : Word
  exponent : Int
  isExceptional : Bool
deriving DecidableEq, Repr

/-- `isExceptional`: E is 0 or 2047. -/
def isExceptional (p : Word) : Bool := biasedExponent p == 0 || biasedExponent p == 2047

/-- `split_binary64(p)` (R224), defined on every pattern. -/
def splitBinary64 (p : Word) : Split where
  sign := if p.getLsbD 63 then -1 else 1
  mantissa := if isExceptional p then 0#12 ++ fraction p else 0#11 ++ 1#1 ++ fraction p
  exponent := (biasedExponent p : Int) - 1023
  isExceptional := isExceptional p

/-! ### The commands -/

/-- The exponent operand: `signed(x[rc])` (R220, R228). -/
def State.readExponent (s : State) (rc : Reg) : Int := (s.readX rc).toInt

/-- `BUILD xd, xa, xb, xc` (R228): no checks; only bit 63 of the sign register counts (log entry 7). -/
def execBuild (rd ra rb rc : Reg) (s : State) : Outcome :=
  writeResult rd (buildBinary64 (s.readSign ra) (s.readX rb) (s.readExponent rc)) s

/-- `BUILDC xd, xa, xb, xc` (R229): the range check, then the invariant check (R258), then the same construction. The sign and mantissa
bits 63 to 53 are not checked (log entry 7). -/
def execBuildc (rd ra rb rc : Reg) (s : State) : Outcome :=
  if rangeOk (s.readExponent rc) = false then raise .rangeError s
  else if invariantOk (s.readX rb) (s.readExponent rc) = false then raise .invariantViolation s
  else writeResult rd (buildBinary64 (s.readSign ra) (s.readX rb) (s.readExponent rc)) s

/-- `FSIGN xd, xa` (R230). -/
def execFsign (rd ra : Reg) (s : State) : Outcome :=
  writeResult rd (bits64 (splitBinary64 (s.readX ra)).sign) s

/-- `FMANT xd, xa` (R231). -/
def execFmant (rd ra : Reg) (s : State) : Outcome := writeResult rd (splitBinary64 (s.readX ra)).mantissa s

/-- `FEXP xd, xa` (R232). -/
def execFexp (rd ra : Reg) (s : State) : Outcome :=
  writeResult rd (bits64 (splitBinary64 (s.readX ra)).exponent) s

/-- `FEXC xd, xa` (R233). -/
def execFexc (rd ra : Reg) (s : State) : Outcome :=
  writeResult rd (truth (splitBinary64 (s.readX ra)).isExceptional) s

/-- `FNRM xd, xa` (R234): `bool(1 <= E and E <= 2046)`. -/
def execFnrm (rd ra : Reg) (s : State) : Outcome :=
  writeResult rd (truth (decide (1 ≤ biasedExponent (s.readX ra) ∧ biasedExponent (s.readX ra) ≤ 2046))) s

end Sys2Proof.Machine
end

