-- ==== Sys2Proof/Machine/Compare.lean ====
section
/-! DEFINITION. The comparison commands of the int64-alu (spec/43_int64_alu.md R170 to R180): a truth value or a three-way result goes to
`x[rd]`; no flag. -/

namespace Sys2Proof.Machine

/-- The three-way comparison of two integers: -1, 0 or +1 (R177). -/
def threeWay (a b : Int) : Int := if a < b then -1 else if b < a then 1 else 0

/-- `cmp_u(a, b)` (R177). -/
def cmpU (a b : Word) : Int := threeWay a.toNat b.toNat

/-- `cmp_s(a, b)` (R177). -/
def cmpS (a b : Word) : Int := threeWay a.toInt b.toInt

/-- `ISZERO xd, xa` (R171). -/
def execIszero (rd ra : Reg) (s : State) : Outcome := writeResult rd (truth (s.readX ra == 0#64)) s

/-- `EQ xd, xa, xb` (R172). -/
def execEq (rd ra rb : Reg) (s : State) : Outcome := writeResult rd (truth (s.readX ra == s.readX rb)) s

/-- `LT xd, xa, xb` (R173): unsigned. -/
def execLt (rd ra rb : Reg) (s : State) : Outcome :=
  writeResult rd (truth (decide ((s.readX ra).toNat < (s.readX rb).toNat))) s

/-- `GT xd, xa, xb` (R174): unsigned. -/
def execGt (rd ra rb : Reg) (s : State) : Outcome :=
  writeResult rd (truth (decide ((s.readX ra).toNat > (s.readX rb).toNat))) s

/-- `ILT xd, xa, xb` (R175): signed. -/
def execIlt (rd ra rb : Reg) (s : State) : Outcome :=
  writeResult rd (truth (decide ((s.readX ra).toInt < (s.readX rb).toInt))) s

/-- `IGT xd, xa, xb` (R176): signed. -/
def execIgt (rd ra rb : Reg) (s : State) : Outcome :=
  writeResult rd (truth (decide ((s.readX ra).toInt > (s.readX rb).toInt))) s

/-- `CMP xd, xa, xb` (R178). -/
def execCmp (rd ra rb : Reg) (s : State) : Outcome := writeResult rd (bits64 (cmpU (s.readX ra) (s.readX rb))) s

/-- `SCMP xd, xa, xb` (R179). -/
def execScmp (rd ra rb : Reg) (s : State) : Outcome := writeResult rd (bits64 (cmpS (s.readX ra) (s.readX rb))) s

end Sys2Proof.Machine
end

