-- ==== Sys2Proof/Machine/IntAlu.lean ====
section
/-! DEFINITION. The arithmetic and bitwise commands of the int64-alu (spec/43_int64_alu.md R150 to R160): 64-bit wraparound, no flag. -/

namespace Sys2Proof.Machine

/-- Two's-complement negation, `bits_64(0 - unsigned(v))` (R151). -/
def neg64 (v : Word) : Word := bits64 (0 - (v.toNat : Int))

/-- `NEG xd, xa` (R151). -/
def execNeg (rd ra : Reg) (s : State) : Outcome := writeResult rd (neg64 (s.readX ra)) s

/-- `NOT xd, xa` (R152). -/
def execNot (rd ra : Reg) (s : State) : Outcome := writeResult rd (~~~(s.readX ra)) s

/-- `ABS xd, xa` (R153): negate when bit 63 is set, whatever the value is taken to be. -/
def execAbs (rd ra : Reg) (s : State) : Outcome :=
  writeResult rd (if s.readSign ra then neg64 (s.readX ra) else s.readX ra) s

/-- `ADD xd, xa, xb` (R154). -/
def execAdd (rd ra rb : Reg) (s : State) : Outcome :=
  writeResult rd (bits64 ((s.readX ra).toNat + (s.readX rb).toNat)) s

/-- `SUB xd, xa, xb` (R155). -/
def execSub (rd ra rb : Reg) (s : State) : Outcome :=
  writeResult rd (bits64 ((s.readX ra).toNat - (s.readX rb).toNat)) s

/-- `RSUB xd, xa, xb` (R156): the operand minus the receiver. -/
def execRsub (rd ra rb : Reg) (s : State) : Outcome :=
  writeResult rd (bits64 ((s.readX rb).toNat - (s.readX ra).toNat)) s

/-- `AND xd, xa, xb` (R157). -/
def execAnd (rd ra rb : Reg) (s : State) : Outcome := writeResult rd (s.readX ra &&& s.readX rb) s

/-- `OR xd, xa, xb` (R158). -/
def execOr (rd ra rb : Reg) (s : State) : Outcome := writeResult rd (s.readX ra ||| s.readX rb) s

/-- `XOR xd, xa, xb` (R159). -/
def execXor (rd ra rb : Reg) (s : State) : Outcome := writeResult rd (s.readX ra ^^^ s.readX rb) s

end Sys2Proof.Machine
end

