-- ==== Sys2Proof/Machine/Move.lean ====
section
/-! DEFINITION. Construction, accessors and host transfer (spec/44_int64_move.md R190 to R205). -/

namespace Sys2Proof.Machine

/-! ### Construction and transfer -/

/-- `CLR xd` (R191). -/
def execClr (rd : Reg) (s : State) : Outcome := writeResult rd 0 s

/-- `MOV xd, xa` (R192). -/
def execMov (rd ra : Reg) (s : State) : Outcome := writeResult rd (s.readX ra) s

/-- `LI xd, imm16` (R193). -/
def execLi (rd : Reg) (imm : Imm16) (s : State) : Outcome := writeResult rd (zext64 imm) s

/-- `LIS xd, imm16` (R194). -/
def execLis (rd : Reg) (imm : Imm16) (s : State) : Outcome := writeResult rd (sext64 imm) s

/-- `LDV xd, =value` (R195): "the only command that reads `din`". -/
def execLdv (rd : Reg) (s : State) : Outcome := writeResult rd s.din s

/-- `RDV xa` (R196): no state of the unit changes. -/
def execRdv (ra : Reg) (s : State) : Outcome := sendData (s.readX ra) s

/-! ### Halves and sign -/

/-- `MKU xd, xa, xb` (R198): `bits_64(unsigned(zext_64(high)) * 2^32) | zext_64(low)`. -/
def execMku (rd ra rb : Reg) (s : State) : Outcome :=
  writeResult rd (bits64 ((zext64 (s.readLo ra)).toNat * 2 ^ 32) ||| zext64 (s.readLo rb)) s

/-- `MKS xd, xa, xb` (R199): `bits_64(signed(sext_64(high)) * 2^32) | zext_64(low)`. -/
def execMks (rd ra rb : Reg) (s : State) : Outcome :=
  writeResult rd (bits64 ((sext64 (s.readLo ra)).toInt * 2 ^ 32) ||| zext64 (s.readLo rb)) s

/-- `SIGN xd, xa` (R201). -/
def execSign (rd ra : Reg) (s : State) : Outcome := writeResult rd (truth (s.readSign ra)) s

/-- `GHI xd, xa` (R202). -/
def execGhi (rd ra : Reg) (s : State) : Outcome := writeResult rd (zext64 (hi32 (s.readX ra))) s

/-- `GLO xd, xa` (R203). -/
def execGlo (rd ra : Reg) (s : State) : Outcome := writeResult rd (zext64 (s.readLo ra)) s

/-- `SHI xd, xa` (R204): the low half of `x[rd]` is kept. -/
def execShi (rd ra : Reg) (s : State) : Outcome := writeResult rd (joinHalves (s.readLo ra) (s.readLo rd)) s

/-- `SLO xd, xa` (R205): the high half of `x[rd]` is kept. -/
def execSlo (rd ra : Reg) (s : State) : Outcome :=
  writeResult rd (joinHalves (hi32 (s.readX rd)) (s.readLo ra)) s

end Sys2Proof.Machine
end

