-- ==== Sys2Proof/Machine/ShiftRotate.lean ====
section
/-! DEFINITION. The shift-rotate-unit (spec/41_shift_rotate.md): the functions of R100 to R105 and the ten commands of R107 to R117.
Every function takes an amount of any size and reduces it modulo the width first (R100). -/

namespace Sys2Proof.Machine

/-! ### The functions -/

/-- `shl_w(v, n) = bits_w(unsigned(v) * 2^k)`, `k = n mod w` (R101). -/
def shl {w : Nat} (v : BitVec w) (n : Nat) : BitVec w := BitVec.ofNat w (v.toNat * 2 ^ (n % w))

/-- `shr_w(v, n) = bits_w(floor(unsigned(v) / 2^k))`, `k = n mod w` (R102). -/
def shr {w : Nat} (v : BitVec w) (n : Nat) : BitVec w := BitVec.ofNat w (v.toNat / 2 ^ (n % w))

/-- `sar_w(v, n) = bits_w(floor(signed(v) / 2^k))`, `k = n mod w`, the floor toward minus infinity (R103). -/
def sar {w : Nat} (v : BitVec w) (n : Nat) : BitVec w := BitVec.ofInt w (Int.fdiv v.toInt (2 ^ (n % w)))

/-- `rol_w(v, n)` (R104), the case `k = 0` apart. -/
def rol {w : Nat} (v : BitVec w) (n : Nat) : BitVec w :=
  let k := n % w
  if k = 0 then v else BitVec.ofNat w (v.toNat * 2 ^ k) ||| BitVec.ofNat w (v.toNat / 2 ^ (w - k))

/-- `ror_w(v, n)` (R105), the case `k = 0` apart. -/
def ror {w : Nat} (v : BitVec w) (n : Nat) : BitVec w :=
  let k := n % w
  if k = 0 then v else BitVec.ofNat w (v.toNat / 2 ^ k) ||| BitVec.ofNat w (v.toNat * 2 ^ (w - k))

/-! ### The commands (R107) -/

/-- `SHL32 xd, xa, xb` (R108). -/
def execShl32 (rd ra rb : Reg) (s : State) : Outcome :=
  writeResult rd (zext64 (shl (s.readLo ra) (s.readAmount rb))) s

/-- `SHR32 xd, xa, xb` (R109). -/
def execShr32 (rd ra rb : Reg) (s : State) : Outcome :=
  writeResult rd (zext64 (shr (s.readLo ra) (s.readAmount rb))) s

/-- `SAR32 xd, xa, xb` (R110). -/
def execSar32 (rd ra rb : Reg) (s : State) : Outcome :=
  writeResult rd (zext64 (sar (s.readLo ra) (s.readAmount rb))) s

/-- `ROL32 xd, xa, xb` (R111). -/
def execRol32 (rd ra rb : Reg) (s : State) : Outcome :=
  writeResult rd (zext64 (rol (s.readLo ra) (s.readAmount rb))) s

/-- `ROR32 xd, xa, xb` (R112). -/
def execRor32 (rd ra rb : Reg) (s : State) : Outcome :=
  writeResult rd (zext64 (ror (s.readLo ra) (s.readAmount rb))) s

/-- `SHL64 xd, xa, xb` (R113). -/
def execShl64 (rd ra rb : Reg) (s : State) : Outcome :=
  writeResult rd (shl (s.readX ra) (s.readAmount rb)) s

/-- `SHR64 xd, xa, xb` (R114). -/
def execShr64 (rd ra rb : Reg) (s : State) : Outcome :=
  writeResult rd (shr (s.readX ra) (s.readAmount rb)) s

/-- `SAR64 xd, xa, xb` (R115). -/
def execSar64 (rd ra rb : Reg) (s : State) : Outcome :=
  writeResult rd (sar (s.readX ra) (s.readAmount rb)) s

/-- `ROL64 xd, xa, xb` (R116). -/
def execRol64 (rd ra rb : Reg) (s : State) : Outcome :=
  writeResult rd (rol (s.readX ra) (s.readAmount rb)) s

/-- `ROR64 xd, xa, xb` (R117). -/
def execRor64 (rd ra rb : Reg) (s : State) : Outcome :=
  writeResult rd (ror (s.readX ra) (s.readAmount rb)) s

end Sys2Proof.Machine
end

