-- ==== Sys2Proof/Machine/Dispatch.lean ====
section
/-! DEFINITION. The meaning of each command, one arm per constructor of `Instr`. -/

namespace Sys2Proof.Machine

/-- Steps 2 to 5 of R50 for a decoded command. -/
def exec (i : Instr) (s : State) : Host.Outcome State Fault Refusal :=
  match i with
  | .clz32 rd ra => Sys2Proof.Machine.execClz32 rd ra s
  | .clz64 rd ra => Sys2Proof.Machine.execClz64 rd ra s
  | .ctz32 rd ra => Sys2Proof.Machine.execCtz32 rd ra s
  | .ctz64 rd ra => Sys2Proof.Machine.execCtz64 rd ra s
  | .popcnt32 rd ra => Sys2Proof.Machine.execPopcnt32 rd ra s
  | .popcnt64 rd ra => Sys2Proof.Machine.execPopcnt64 rd ra s
  | .shl32 rd ra rb => Sys2Proof.Machine.execShl32 rd ra rb s
  | .shr32 rd ra rb => Sys2Proof.Machine.execShr32 rd ra rb s
  | .sar32 rd ra rb => Sys2Proof.Machine.execSar32 rd ra rb s
  | .rol32 rd ra rb => Sys2Proof.Machine.execRol32 rd ra rb s
  | .ror32 rd ra rb => Sys2Proof.Machine.execRor32 rd ra rb s
  | .shl64 rd ra rb => Sys2Proof.Machine.execShl64 rd ra rb s
  | .shr64 rd ra rb => Sys2Proof.Machine.execShr64 rd ra rb s
  | .sar64 rd ra rb => Sys2Proof.Machine.execSar64 rd ra rb s
  | .rol64 rd ra rb => Sys2Proof.Machine.execRol64 rd ra rb s
  | .ror64 rd ra rb => Sys2Proof.Machine.execRor64 rd ra rb s
  | .adc rd ra rb => Sys2Proof.Machine.execAdc rd ra rb s
  | .sbb rd ra rb => Sys2Proof.Machine.execSbb rd ra rb s
  | .clc => Sys2Proof.Machine.execClc s
  | .stc => Sys2Proof.Machine.execStc s
  | .getc rd => Sys2Proof.Machine.execGetc rd s
  | .putc ra => Sys2Proof.Machine.execPutc ra s
  | .neg rd ra => Sys2Proof.Machine.execNeg rd ra s
  | .not rd ra => Sys2Proof.Machine.execNot rd ra s
  | .abs rd ra => Sys2Proof.Machine.execAbs rd ra s
  | .add rd ra rb => Sys2Proof.Machine.execAdd rd ra rb s
  | .sub rd ra rb => Sys2Proof.Machine.execSub rd ra rb s
  | .rsub rd ra rb => Sys2Proof.Machine.execRsub rd ra rb s
  | .and rd ra rb => Sys2Proof.Machine.execAnd rd ra rb s
  | .or rd ra rb => Sys2Proof.Machine.execOr rd ra rb s
  | .xor rd ra rb => Sys2Proof.Machine.execXor rd ra rb s
  | .iszero rd ra => Sys2Proof.Machine.execIszero rd ra s
  | .eq rd ra rb => Sys2Proof.Machine.execEq rd ra rb s
  | .lt rd ra rb => Sys2Proof.Machine.execLt rd ra rb s
  | .gt rd ra rb => Sys2Proof.Machine.execGt rd ra rb s
  | .ilt rd ra rb => Sys2Proof.Machine.execIlt rd ra rb s
  | .igt rd ra rb => Sys2Proof.Machine.execIgt rd ra rb s
  | .cmp rd ra rb => Sys2Proof.Machine.execCmp rd ra rb s
  | .scmp rd ra rb => Sys2Proof.Machine.execScmp rd ra rb s
  | .clr rd => Sys2Proof.Machine.execClr rd s
  | .mov rd ra => Sys2Proof.Machine.execMov rd ra s
  | .li rd imm => Sys2Proof.Machine.execLi rd imm s
  | .lis rd imm => Sys2Proof.Machine.execLis rd imm s
  | .ldv rd => Sys2Proof.Machine.execLdv rd s
  | .rdv ra => Sys2Proof.Machine.execRdv ra s
  | .mku rd ra rb => Sys2Proof.Machine.execMku rd ra rb s
  | .mks rd ra rb => Sys2Proof.Machine.execMks rd ra rb s
  | .sign rd ra => Sys2Proof.Machine.execSign rd ra s
  | .ghi rd ra => Sys2Proof.Machine.execGhi rd ra s
  | .glo rd ra => Sys2Proof.Machine.execGlo rd ra s
  | .shi rd ra => Sys2Proof.Machine.execShi rd ra s
  | .slo rd ra => Sys2Proof.Machine.execSlo rd ra s
  | .build rd ra rb rc => Sys2Proof.Machine.execBuild rd ra rb rc s
  | .buildc rd ra rb rc => Sys2Proof.Machine.execBuildc rd ra rb rc s
  | .fsign rd ra => Sys2Proof.Machine.execFsign rd ra s
  | .fmant rd ra => Sys2Proof.Machine.execFmant rd ra s
  | .fexp rd ra => Sys2Proof.Machine.execFexp rd ra s
  | .fexc rd ra => Sys2Proof.Machine.execFexc rd ra s
  | .fnrm rd ra => Sys2Proof.Machine.execFnrm rd ra s

end Sys2Proof.Machine
end

