-- ==== Sys2Proof/Machine/Transaction.lean ====
section
/-! DEFINITION. A transaction (spec/30_encoding.md R50): accepting what is presented next, decoding, executing; and what the unit does
between commands. -/

namespace Sys2Proof.Machine

/-- The unit accepts a command (R46): its `din` is on the data-in port (R40), and it is no longer waiting. -/
def State.accept (s : State) (c : Command) (rest : List HostEvent) : State :=
  { s with pending := rest, din := c.din }

/-- The command word is decoded first; a word that is not a legal encoding raises IllegalCommand, "so nothing further is examined"
(R50 step 1, R57, R251, R258). -/
def runWord (cw : CommandWord) (s : State) : Outcome :=
  match decode cw with
  | .ok i => exec i s
  | .error _ => raise .illegalCommand s

/-- What the unit does with the event that is presented next. With nothing presented "the unit is idle and holds its state" (R263;
log entry 5). A reset event gives no response, and a command it caught in execution is lost (R280). -/
def handleNext (s : State) : Outcome :=
  match s.pending with
  | [] => .next s
  | .reset _ :: rest => .next { s.resetUnit with pending := rest }
  | .command c :: rest => runWord c.cw (s.accept c rest)

/-- The host presents this command before everything else it has to present. -/
def State.present (s : State) (c : Command) : State := { s with pending := .command c :: s.pending }

end Sys2Proof.Machine
end

