-- ==== Sys2Proof/Machine/Step.lean ====
section
/-! DEFINITION. One step of the machine: one transaction, one reset event, or one idle step. -/

namespace Sys2Proof.Machine

/-- One step: the unit handles what is presented next (R46, R50, R263, R280). -/
def step (s : State) : Outcome := handleNext s

/-- The same state with the instruction of `nbits` bits `w` presented as the very next command. The machine does not fetch: "a command
word comes from the host each time" (R49), so this stands for the host presenting it; its data-in value is 0 (log entry 11). -/
def State.withFetchWord (s : State) (nbits w : Nat) : State :=
  s.present ⟨BitVec.ofNat 32 (w % 2 ^ nbits), 0#64⟩

end Sys2Proof.Machine
end

