-- ==== Sys2Proof/Machine/Access.lean ====
section
/-! DEFINITION. Which command touches which state: the table of spec/10_state.md R32, written from the table and not from the meanings. -/

namespace Sys2Proof

/-- The `x` registers a command reads (R32). -/
def Instr.sources : Instr → List Reg
  | .clz32 _ a | .clz64 _ a | .ctz32 _ a | .ctz64 _ a | .popcnt32 _ a | .popcnt64 _ a | .neg _ a | .not _ a
  | .abs _ a | .iszero _ a | .mov _ a | .sign _ a | .ghi _ a | .glo _ a | .fsign _ a | .fmant _ a | .fexp _ a
  | .fexc _ a | .fnrm _ a => [a]
  | .rdv a | .putc a => [a]
  | .shl32 _ a b | .shr32 _ a b | .sar32 _ a b | .rol32 _ a b | .ror32 _ a b | .shl64 _ a b | .shr64 _ a b
  | .sar64 _ a b | .rol64 _ a b | .ror64 _ a b | .add _ a b | .sub _ a b | .rsub _ a b | .and _ a b | .or _ a b
  | .xor _ a b | .eq _ a b | .lt _ a b | .gt _ a b | .ilt _ a b | .igt _ a b | .cmp _ a b | .scmp _ a b | .mku _ a b
  | .mks _ a b | .adc _ a b | .sbb _ a b => [a, b]
  | .build _ a b c | .buildc _ a b c => [a, b, c]
  | .shi d a | .slo d a => [d, a]
  | .getc _ | .ldv _ | .clr _ => []
  | .li _ _ | .lis _ _ => []
  | .clc | .stc => []

/-- The `x` register a command writes: "every command except `RDV PUTC CLC STC`" writes `x[rd]` (R32). -/
def Instr.destination : Instr → Option Reg
  | .rdv _ | .putc _ => none
  | .clc | .stc => none
  | .clz32 d _ | .clz64 d _ | .ctz32 d _ | .ctz64 d _ | .popcnt32 d _ | .popcnt64 d _ | .neg d _ | .not d _
  | .abs d _ | .iszero d _ | .mov d _ | .li d _ | .lis d _ | .sign d _ | .ghi d _ | .glo d _ | .shi d _ | .slo d _
  | .fsign d _ | .fmant d _ | .fexp d _ | .fexc d _ | .fnrm d _ => some d
  | .shl32 d _ _ | .shr32 d _ _ | .sar32 d _ _ | .rol32 d _ _ | .ror32 d _ _ | .shl64 d _ _ | .shr64 d _ _
  | .sar64 d _ _ | .rol64 d _ _ | .ror64 d _ _ | .adc d _ _ | .sbb d _ _ | .add d _ _ | .sub d _ _ | .rsub d _ _
  | .and d _ _ | .or d _ _ | .xor d _ _ | .eq d _ _ | .lt d _ _ | .gt d _ _ | .ilt d _ _ | .igt d _ _ | .cmp d _ _
  | .scmp d _ _ | .mku d _ _ | .mks d _ _ => some d
  | .getc d | .clr d | .ldv d => some d
  | .build d _ _ _ | .buildc d _ _ _ => some d

/-- The commands that read `CF` (R26, R32). -/
def Instr.readsCF : Instr → Bool
  | .adc _ _ _ | .sbb _ _ _ => true
  | .getc _ => true
  | _ => false

/-- The commands that write `CF`: "exactly five" (R26, R32). -/
def Instr.writesCF : Instr → Bool
  | .adc _ _ _ | .sbb _ _ _ => true
  | .clc | .stc => true
  | .putc _ => true
  | _ => false

/-- The command that reads `din` (R32, R40). -/
def Instr.readsDin : Instr → Bool
  | .ldv _ => true
  | _ => false

/-- The command whose `dout` is a register's value (R32, R40). -/
def Instr.setsDout : Instr → Bool
  | .rdv _ => true
  | _ => false

/-- The command that can fault once its word has decoded (R32, R250; log entry 14). -/
def Instr.canFault : Instr → Bool
  | .buildc _ _ _ _ => true
  | _ => false

end Sys2Proof
end

