-- ==== Sys2Proof/Machine/Assembler.lean ====
section
/-! DEFINITION. The host's assembler: the syntax of spec/30_encoding.md R59 and the pseudo-instructions of R60, from a line of text to
the commands the host presents. It is no part of the unit; its commands are. What it does with a line R59 does not describe is log
entry 12. -/

namespace Sys2Proof.Machine

/-! ### Lines as tokens -/

/-- One operand of a line (R59). -/
inductive Operand where
  /-- A register, `x0` .. `x15`. -/
  | reg (r : Reg)
  /-- An immediate, decimal or hexadecimal, with the sign it is written with. -/
  | imm (n : Int)
  /-- `=value`, the `din` value that goes with an `LDV`. -/
  | data (n : Nat)
deriving DecidableEq, Repr

/-- A line without its comment: a mnemonic and its operands. -/
structure AsmLine where
  mnemonic : String
  operands : List Operand
deriving DecidableEq, Repr

/-- The source's names, accepted as aliases (R60 (b)). -/
def aliasNames : List (String × String) := [
  ("ADD2", "ADC"), ("SUB2", "SBB"), ("CLZ", "CLZ64"), ("CTZ", "CTZ64"), ("SHL", "SHL64"), ("SHR", "SHR64"),
  ("SAR", "SAR64"), ("ROL", "ROL64"), ("ROR", "ROR64"), ("COMPARE", "CMP"), ("SIGNEDCOMPARE", "SCMP")]

/-- The mnemonic of R55 that a written name stands for. -/
def realName (name : String) : String := (aliasNames.lookup name).getD name

/-- The opcode of a mnemonic of R55. -/
def opcodeNamed (name : String) : Option (BitVec 8) :=
  (opcodeMap.find? (·.mnemonic == name)).map (fun r => opcodeOf r.matchWord)

/-- The immediate of `LI` (R53): written as a number 0..65535. -/
def unsignedImm (n : Int) : Option Imm16 :=
  if 0 ≤ n ∧ n < 2 ^ 16 then some (BitVec.ofInt 16 n) else none

/-- The immediate of `LIS` (R59): "a negative decimal -32768..-1 stands for its 16-bit two's complement"; a number 0..65535 stands for
its 16 bits. -/
def signedImm (n : Int) : Option Imm16 :=
  if -(2 ^ 15) ≤ n ∧ n < 2 ^ 16 then some (BitVec.ofInt 16 n) else none

/-- A command word with a `din` of 0: every command but `LDV` ignores `din` (R40). -/
def plainCommand (i : Instr) : Command := ⟨encode i, 0#64⟩

/-- One real mnemonic with its operands in the order `rd`, `ra`, `rb`, `rc` (R59), or in the in-place form of R60 (a):
`OP xd, xb` for `OP xd, xd, xb`, and `OP xd` for `OP xd, xd` where the command is not `SHI` or `SLO`. -/
def assembleReal (name : String) (operands : List Operand) : Option Command :=
  match (opcodeNamed name).bind formOf, operands with
  | some (.plain i), [] => some (plainCommand i)
  | some (.rd mk), [.reg d] => if name == "LDV" then none else some (plainCommand (mk d))
  | some (.rd mk), [.reg d, .data v] =>
    if name == "LDV" ∧ v < 2 ^ 64 then some ⟨encode (mk d), BitVec.ofNat 64 v⟩ else none
  | some (.ra mk), [.reg a] => some (plainCommand (mk a))
  | some (.rdRa mk), [.reg d, .reg a] => some (plainCommand (mk d a))
  | some (.rdRa mk), [.reg d] => if name == "SHI" ∨ name == "SLO" then none else some (plainCommand (mk d d))
  | some (.rdRaRb mk), [.reg d, .reg a, .reg b] => some (plainCommand (mk d a b))
  | some (.rdRaRb mk), [.reg d, .reg b] => some (plainCommand (mk d d b))
  | some (.rdRaRbRc mk), [.reg d, .reg a, .reg b, .reg c] => some (plainCommand (mk d a b c))
  | some (.rdImm mk), [.reg d, .imm n] =>
    (if name == "LIS" then signedImm n else unsignedImm n).map fun imm => plainCommand (mk d imm)
  | _, _ => none

/-- `SPLIT xs, xm, xe, xf, xa` (R60 (c)): the four commands, in that order; the assembler rejects an `xa` that an earlier of them
overwrites. -/
def expandSplit (xs xm xe xf xa : Reg) : Option (List Command) :=
  if splitWf xs xm xe xa then
    some [plainCommand (.fsign xs xa), plainCommand (.fmant xm xa), plainCommand (.fexp xe xa), plainCommand (.fexc xf xa)]
  else none

/-- The commands a line stands for, or none where the line is not of R59 or R60. -/
def assembleLine (l : AsmLine) : Option (List Command) :=
  if l.mnemonic == "SPLIT" then
    match l.operands with
    | [.reg xs, .reg xm, .reg xe, .reg xf, .reg xa] => expandSplit xs xm xe xf xa
    | _ => none
  else (assembleReal (realName l.mnemonic) l.operands).map ([·])

/-- The operands of a command in the order of R59; `din` is the data-in value that goes with an `LDV`. -/
def operandsOfInstr (i : Instr) (din : Word) : List Operand :=
  match i with
  | .clc | .stc => []
  | .getc d | .clr d => [.reg d]
  | .ldv d => [.reg d, .data din.toNat]
  | .putc a | .rdv a => [.reg a]
  | .clz32 d a | .clz64 d a | .ctz32 d a | .ctz64 d a | .popcnt32 d a | .popcnt64 d a | .neg d a | .not d a
  | .abs d a | .iszero d a | .mov d a | .sign d a | .ghi d a | .glo d a | .shi d a | .slo d a | .fsign d a
  | .fmant d a | .fexp d a | .fexc d a | .fnrm d a =>
    [.reg d, .reg a]
  | .shl32 d a b | .shr32 d a b | .sar32 d a b | .rol32 d a b | .ror32 d a b | .shl64 d a b | .shr64 d a b
  | .sar64 d a b | .rol64 d a b | .ror64 d a b | .adc d a b | .sbb d a b | .add d a b | .sub d a b | .rsub d a b
  | .and d a b | .or d a b | .xor d a b | .eq d a b | .lt d a b | .gt d a b | .ilt d a b | .igt d a b | .cmp d a b
  | .scmp d a b | .mku d a b | .mks d a b =>
    [.reg d, .reg a, .reg b]
  | .build d a b c | .buildc d a b c => [.reg d, .reg a, .reg b, .reg c]
  | .li d imm => [.reg d, .imm imm.toNat]
  | .lis d imm => [.reg d, .imm imm.toInt]

/-- The line of a command in the syntax of R59. -/
def lineOf (i : Instr) (din : Word) : AsmLine := ⟨i.mnemonic, operandsOfInstr i din⟩

/-! ### Lines as text -/

/-- The value of a digit in a base up to sixteen. -/
def digitValue (base : Nat) (c : Char) : Option Nat :=
  let n := c.toNat
  let v := if 48 ≤ n ∧ n ≤ 57 then n - 48 else if 65 ≤ n ∧ n ≤ 70 then n - 55 else if 97 ≤ n ∧ n ≤ 102 then n - 87 else 16
  if v < base then some v else none

/-- The number that digits write, after the digits already read. -/
def digitsFrom (base : Nat) : Nat → List Char → Option Nat
  | acc, [] => some acc
  | acc, c :: rest => (digitValue base c).bind fun d => digitsFrom base (acc * base + d) rest

/-- A number "in decimal or `0x` hexadecimal" (R59). -/
def number : List Char → Option Nat
  | [] => none
  | '0' :: 'x' :: c :: rest => digitsFrom 16 0 (c :: rest)
  | c :: rest => digitsFrom 10 0 (c :: rest)

/-- The register names (R59). -/
def regNames : List (List Char × Reg) := [
  ("x0".toList, 0), ("x1".toList, 1), ("x2".toList, 2), ("x3".toList, 3), ("x4".toList, 4), ("x5".toList, 5),
  ("x6".toList, 6), ("x7".toList, 7), ("x8".toList, 8), ("x9".toList, 9), ("x10".toList, 10), ("x11".toList, 11),
  ("x12".toList, 12), ("x13".toList, 13), ("x14".toList, 14), ("x15".toList, 15)]

/-- One operand, without blanks around it. -/
def operandOf : List Char → Option Operand
  | '=' :: rest => (number rest).map .data
  | '-' :: c :: rest => (digitsFrom 10 0 (c :: rest)).map fun n => .imm (-(n : Int))
  | text =>
    match regNames.lookup text with
    | some r => some (.reg r)
    | none => (number text).map fun n => .imm n

/-- A blank between tokens. -/
def isBlank (c : Char) : Bool := c == ' ' || c == '\t'

/-- The pieces between the separators. -/
def piecesOf (separator : Char) : List Char → List (List Char)
  | [] => [[]]
  | c :: rest =>
    match piecesOf separator rest with
    | [] => [[c]]
    | first :: more => if c == separator then [] :: first :: more else (c :: first) :: more

/-- Without blanks at either end. -/
def trimBlanks (text : List Char) : List Char := ((text.dropWhile isBlank).reverse.dropWhile isBlank).reverse

/-- The operands, "separated by commas". -/
def operandsOf (text : List Char) : Option (List Operand) :=
  if text.isEmpty then some [] else (piecesOf ',' text).mapM fun piece => operandOf (trimBlanks piece)

/-- The commands one line of text stands for (R59): a comment runs from `;` to the end of the line, and a line with nothing before it
stands for no command. -/
def assembleText (line : String) : Option (List Command) :=
  let code := trimBlanks (line.toList.takeWhile (· != ';'))
  if code.isEmpty then some []
  else
    let name := code.takeWhile (!isBlank ·)
    (operandsOf (trimBlanks (code.drop name.length))).bind fun operands => assembleLine ⟨String.ofList name, operands⟩

end Sys2Proof.Machine
end

