-- ==== Sys2Proof/Safety.lean ====
section
/-! DEFINITION. What counts as a safe run of the unit: it never stops (spec/70_reset_and_hazards.md R288), every response is well formed
(spec/20_memory.md R40), and every presented command gets its response (spec/20_memory.md R46). -/

namespace Sys2Proof.Machine

/-- A response as R40 and R255 allow it: "every faulting response, has `dout = 0`". -/
def responseWf (r : Response) : Bool := r.status == 0 || r.dout == 0

/-- The state invariant: every response produced so far is well formed. -/
def State.Inv (s : State) : Prop := ∀ r ∈ s.responses, responseWf r = true

/-- The state of the unit proper, without its ports: `x` and `CF` (R30). -/
def State.unit (s : State) : Vector Word 16 × Bool := (s.x, s.cf)

/-- The number of commands in a list of events; a command lost to a reset is not among them (R280). -/
def commandCount : List HostEvent → Nat
  | [] => 0
  | .command _ :: rest => commandCount rest + 1
  | .reset _ :: rest => commandCount rest

/-- The machine goes on: its next step answers a next state (R11, R288). -/
def State.Goes (s : State) : Prop := ∃ t, step s = .next t

end Sys2Proof.Machine
end

