-- ==== Sys2Proof/Certificates/Slice0/Obligations.lean ====
section
/-! DEFINITION. The statements for the provers. Each says what a numbered rule of spec/ says, in terms of exec, step and decode; results
are stated in another form than the meanings compute them (bit by bit, or as exact integers). The response of a command is the entry
it adds to `responses` (log entry 3); a command is presented
as the first entry of `pending` (log entry 1). -/

open Sys2Proof Sys2Proof.Machine

namespace Sys2Proof.Claims

/-! ### Words of the statements -/

/-- The number R51 gives for a word of format R. -/
def cwR (opcode rd ra rb rc : Nat) : CommandWord :=
  BitVec.ofNat 32 (opcode * 2 ^ 24 + rd * 2 ^ 20 + ra * 2 ^ 16 + rb * 2 ^ 12 + rc * 2 ^ 8)

/-- The number R51 gives for a word of format I. -/
def cwI (opcode rd imm : Nat) : CommandWord := BitVec.ofNat 32 (opcode * 2 ^ 24 + rd * 2 ^ 20 + imm)

/-- The command wrote `x[rd] <- v` and nothing else of the unit, with `status = 0` and `dout = 0`. -/
def WritesOnly (s t : State) (rd : Reg) (v : Word) : Prop :=
  t.readX rd = v ∧ (∀ r, r ≠ rd → t.readX r = s.readX r) ∧ t.cf = s.cf ∧ t.responses = s.responses ++ [⟨0, 0⟩]

/-- The command wrote `CF <- c` and nothing else of the unit, with `status = 0` and `dout = 0`. -/
def WritesFlagOnly (s t : State) (c : Bool) : Prop :=
  (∀ r, t.readX r = s.readX r) ∧ t.cf = c ∧ t.responses = s.responses ++ [⟨0, 0⟩]

/-- The command changed nothing of the unit and answered `status` and `dout`. -/
def AnswersOnly (s t : State) (status : BitVec 2) (dout : Word) : Prop :=
  (∀ r, t.readX r = s.readX r) ∧ t.cf = s.cf ∧ t.responses = s.responses ++ [⟨status, dout⟩]

/-- `exec i s` answers a next state, and that command wrote `x[rd] <- v` and nothing else. -/
def Completes (i : Instr) (s : State) (rd : Reg) (v : Word) : Prop := ∃ t, exec i s = .next t ∧ WritesOnly s t rd v

/-- `x[r][31:0]` (R84). -/
def low (s : State) (r : Reg) : BitVec 32 := (s.readX r).setWidth 32

/-- n is the number of leading zeros of v, in R80's words: w, or w-1-h for the largest h with `v[h] = 1`. -/
def LeadingZeros {w : Nat} (v : BitVec w) (n : Nat) : Prop :=
  (v = 0 ∧ n = w) ∨
    ∃ h, h < w ∧ v.getLsbD h = true ∧ (∀ j, h < j → j < w → v.getLsbD j = false) ∧ n = w - 1 - h

/-- n is the number of trailing zeros of v, in R81's words: w, or the smallest l with `v[l] = 1`. -/
def TrailingZeros {w : Nat} (v : BitVec w) (n : Nat) : Prop :=
  (v = 0 ∧ n = w) ∨ (n < w ∧ v.getLsbD n = true ∧ ∀ j, j < n → v.getLsbD j = false)

/-- `v[0] + v[1] + ... + v[w-1]` (R82). -/
def bitSum {w : Nat} (v : BitVec w) : Nat := ∑ i ∈ Finset.range w, (v.getLsbD i).toNat

/-- r is v shifted left by k (R101): bit i is `v[i-k]` for i >= k and 0 for i < k. -/
def ShiftedLeft {w : Nat} (v r : BitVec w) (k : Nat) : Prop :=
  ∀ i, i < w → r.getLsbD i = if k ≤ i then v.getLsbD (i - k) else false

/-- r is v shifted right by k with `fill` entering at the top (R102, R103): bit i is `v[i+k]` for i + k <= w-1. -/
def ShiftedRight {w : Nat} (fill : Bool) (v r : BitVec w) (k : Nat) : Prop :=
  ∀ i, i < w → r.getLsbD i = if i + k ≤ w - 1 then v.getLsbD (i + k) else fill

/-- r is v rotated left by k, 0 <= k < w (R104): bit i is `v[(i - k) mod w]`. -/
def RotatedLeft {w : Nat} (v r : BitVec w) (k : Nat) : Prop :=
  ∀ i, i < w → r.getLsbD i = v.getLsbD ((i + (w - k)) % w)

/-- r is v rotated right by k (R105): bit i is `v[(i + k) mod w]`. -/
def RotatedRight {w : Nat} (v r : BitVec w) (k : Nat) : Prop :=
  ∀ i, i < w → r.getLsbD i = v.getLsbD ((i + k) % w)

/-- The number that limbs stand for, least significant first (R132). -/
def limbs : List Word → Nat
  | [] => 0
  | a :: rest => a.toNat + 2 ^ 64 * limbs rest

/-- The pattern `build_binary64(s, m, e)` as a number (R222): bit 63, the exponent field `(e + 1023) mod 2048`, 52 bits of m. -/
def builtNumber (s : State) (ra rb rc : Reg) : Int :=
  ((s.readX ra).toNat / 2 ^ 63 : Nat) * 2 ^ 63 + ((s.readX rc).toInt + 1023) % 2048 * 2 ^ 52
    + ((s.readX rb).toNat % 2 ^ 52 : Nat)

/-- The biased exponent field of `x[r]` as a number (R221). -/
def expField (s : State) (r : Reg) : Nat := (s.readX r).toNat / 2 ^ 52 % 2048

/-- The opcodes R57 (a) lists as not in the table. -/
def unassigned (op : Nat) : Bool :=
  op ≤ 0x0F || (0x16 ≤ op && op ≤ 0x1F) || (0x25 ≤ op && op ≤ 0x27) || (0x2D ≤ op && op ≤ 0x2F) ||
    (0x32 ≤ op && op ≤ 0x37) || (0x3C ≤ op && op ≤ 0x3F) || op == 0x43 || (0x4A ≤ op && op ≤ 0x4F) ||
    (0x58 ≤ op && op ≤ 0x5F) || (0x6D ≤ op && op ≤ 0x6F) || 0x77 ≤ op

/-- `cw & mask = match` holds for no row of the opcode map (R52, R57). -/
def NoRowFits (w : CommandWord) : Prop := ∀ r ∈ opcodeMap, w &&& r.mask ≠ r.matchWord

end Sys2Proof.Claims

open Sys2Proof.Claims

/-! ### Encoding -/

/-- Decode and encode agree on every command, every operand at every value (R51, R55). -/
def Obligations.DecodeOfEncodeIsTheCommand : Prop := ∀ i : Instr, decode (encode i) = .ok i

/-- Each legal word has one meaning and no bit of it is dropped: what a word decodes to encodes to that word. -/
def Obligations.EncodeOfDecodeIsTheWord : Prop := ∀ (w : CommandWord) (i : Instr), decode w = .ok i → encode i = w

/-- R52: the legal words are exactly those with `cw & mask = match` for some row of the opcode map; the row has the decoded command's
mnemonic; and any other word is answered with IllegalCommand. -/
def Obligations.LegalWordsAreThoseOfTheOpcodeMap : Prop :=
  ∀ w : CommandWord,
    (∀ i, decode w = .ok i → ∃ r ∈ opcodeMap, r.mnemonic = i.mnemonic ∧ w &&& r.mask = r.matchWord) ∧
    (∀ r ∈ opcodeMap, w &&& r.mask = r.matchWord → ∃ i, decode w = .ok i ∧ i.mnemonic = r.mnemonic) ∧
    (NoRowFits w → ∀ (s : State) (din : Word) (rest : List HostEvent),
      s.pending = .command ⟨w, din⟩ :: rest → ∃ t, step s = .next t ∧ AnswersOnly s t 1 0)

/-- R57: no row fits a word with one of the 197 opcodes outside the table, whatever its other bits, nor a word with a listed opcode and
a 1 in a bit the command does not use, nor the all-zeros and the all-ones word; and presenting a word that no row fits raises
IllegalCommand with no change of state, whatever its `din`. -/
def Obligations.IllegalWordsRaiseIllegalCommand : Prop :=
  ((List.range 256).filter unassigned).length = 197 ∧
  (∀ w : CommandWord, unassigned (w.toNat / 2 ^ 24) = true → NoRowFits w ∧ decode w = .error .unassignedOpcode) ∧
  (∀ w : CommandWord, unassigned (w.toNat / 2 ^ 24) = false → NoRowFits w → decode w = .error .nonzeroUnused) ∧
  NoRowFits 0x00000000#32 ∧ NoRowFits 0xFFFFFFFF#32 ∧
  (∀ (w : CommandWord) (s : State) (din : Word) (rest : List HostEvent), NoRowFits w →
    s.pending = .command ⟨w, din⟩ :: rest → ∃ t, step s = .next t ∧ AnswersOnly s t 1 0)

/-- R51: the fields of a word by their places, and a built word as the sum the rule gives. -/
def Obligations.WordIsTheSumOfItsFields : Prop :=
  (∀ w : CommandWord, (opcodeOf w).toNat = w.toNat / 2 ^ 24 ∧ (rdOf w).toNat = w.toNat / 2 ^ 20 % 16 ∧
    (raOf w).toNat = w.toNat / 2 ^ 16 % 16 ∧ (rbOf w).toNat = w.toNat / 2 ^ 12 % 16 ∧
    (rcOf w).toNat = w.toNat / 2 ^ 8 % 16 ∧ (zero8Of w).toNat = w.toNat % 2 ^ 8 ∧
    (imm16Of w).toNat = w.toNat % 2 ^ 16) ∧
  (∀ (op : BitVec 8) (rd ra rb rc : BitVec 4), (wordR op rd ra rb rc).toNat
    = op.toNat * 2 ^ 24 + rd.toNat * 2 ^ 20 + ra.toNat * 2 ^ 16 + rb.toNat * 2 ^ 12 + rc.toNat * 2 ^ 8) ∧
  (∀ (op : BitVec 8) (rd : BitVec 4) (imm : Imm16),
    (wordI op rd imm).toNat = op.toNat * 2 ^ 24 + rd.toNat * 2 ^ 20 + imm.toNat)

/-- A few words of the spec's own examples, one of each family, decode to the commands they stand for (R85, R110, R133, R137, R155, R179,
R194, R196, R204, R229). -/
def Obligations.ExampleWordsDecode : Prop :=
  decode 0x10120000#32 = .ok (.clz32 1 2) ∧ decode 0x22123000#32 = .ok (.sar32 1 2 3) ∧
  decode 0x30112000#32 = .ok (.adc 1 1 2) ∧ decode 0x3A500000#32 = .ok (.getc 5) ∧
  decode 0x45123000#32 = .ok (.sub 1 2 3) ∧ decode 0x57123000#32 = .ok (.scmp 1 2 3) ∧
  decode 0x6330FC01#32 = .ok (.lis 3 0xFC01#16) ∧ decode 0x65040000#32 = .ok (.rdv 4) ∧
  decode 0x6B120000#32 = .ok (.shi 1 2) ∧ decode 0x71123400#32 = .ok (.buildc 1 2 3 4)

/-- R59: the line of every command assembles to that command's word, with the written value as `din` for `LDV`. (A `din` of 0 for the
other commands is the model's choice, log entry 12.) -/
def Obligations.LineOfACommandAssemblesToItsWord : Prop :=
  ∀ (i : Instr) (din : Word),
    assembleLine (lineOf i din) = some [⟨encode i, if i.readsDin then din else 0⟩]

/-- R60: the in-place forms, the source's names, and `SPLIT` with its check on `xa`. The model's choice (log entry 12): the `din` of 0 of
the four `SPLIT` commands, that `SHI xd` and `SLO xd` are rejected, and that an alias may stand in an in-place form. -/
def Obligations.PseudoInstructionsRewrite : Prop :=
  (∀ (name : String) (mk : Reg → Reg → Reg → Instr) (d b : Reg),
    (opcodeNamed name).bind formOf = some (.rdRaRb mk) →
      assembleLine ⟨name, [.reg d, .reg b]⟩ = assembleLine ⟨name, [.reg d, .reg d, .reg b]⟩) ∧
  (∀ (name : String) (mk : Reg → Reg → Instr) (d : Reg),
    (opcodeNamed name).bind formOf = some (.rdRa mk) → name ≠ "SHI" → name ≠ "SLO" →
      assembleLine ⟨name, [.reg d]⟩ = assembleLine ⟨name, [.reg d, .reg d]⟩) ∧
  (∀ d : Reg, assembleLine ⟨"SHI", [.reg d]⟩ = none ∧ assembleLine ⟨"SLO", [.reg d]⟩ = none) ∧
  (∀ p ∈ [("ADD2", "ADC"), ("SUB2", "SBB"), ("CLZ", "CLZ64"), ("CTZ", "CTZ64"), ("SHL", "SHL64"), ("SHR", "SHR64"),
      ("SAR", "SAR64"), ("ROL", "ROL64"), ("ROR", "ROR64"), ("COMPARE", "CMP"), ("SIGNEDCOMPARE", "SCMP")],
    ∀ operands, assembleLine ⟨p.1, operands⟩ = assembleLine ⟨p.2, operands⟩) ∧
  (∀ xs xm xe xf xa : Reg, assembleLine ⟨"SPLIT", [.reg xs, .reg xm, .reg xe, .reg xf, .reg xa]⟩ =
    if xa = xs ∨ xa = xm ∨ xa = xe then none
    else some [⟨encode (.fsign xs xa), 0⟩, ⟨encode (.fmant xm xa), 0⟩, ⟨encode (.fexp xe xa), 0⟩,
      ⟨encode (.fexc xf xa), 0⟩])

/-! ### The step -/

/-- A step runs the decoded command (R50, R46): with that command no longer waiting and its `din` on the port. (The fields `pending` and
`din` are the model's ports, log entries 1 and 4.) -/
def Obligations.StepRunsTheDecodedCommand : Prop :=
  ∀ (s : State) (c : Command) (rest : List HostEvent) (i : Instr), s.pending = .command c :: rest →
    decode c.cw = .ok i → step s = exec i { s with pending := rest, din := c.din }

/-- With nothing presented the unit is idle and holds its state (R263; that an idle step is a step is the model's, log entry 5). -/
def Obligations.IdleStepHoldsTheState : Prop := ∀ s : State, s.pending = [] → step s = .next s

/-- R280: reset, whenever it comes and whatever command it catches, leaves every register 0 and `CF` 0, and the lost command's response
is not produced. (That what the host still has to present stays is the model's, log entry 2.) -/
def Obligations.ResetEventClearsTheUnit : Prop :=
  ∀ (s : State) (lost : Option Command) (rest : List HostEvent), s.pending = .reset lost :: rest →
    ∃ t, step s = .next t ∧ (∀ r, t.readX r = 0) ∧ t.cf = false ∧ t.responses = s.responses ∧ t.pending = rest

/-- R31: after reset every register is 0 and `CF` is 0. -/
def Obligations.ResetStateIsAllZero : Prop := (∀ r : Reg, State.reset.readX r = 0) ∧ State.reset.cf = false

/-- R11, R288: the unit never hangs and never refuses: whatever is presented, legal or not, in whatever state, a step answers a next
state. (That a reset event and idling are steps is the model's, log entries 2 and 5.) -/
def Obligations.EveryStepAnswers : Prop := ∀ s : State, ∃ t, step s = .next t

/-- R46, R288: presented n events, the unit works through all of them in n steps, and as many responses are added as there are commands
among them. (The queue is the model's, log entry 1; that what waits survives a reset is the model's choice, log entry 2, which that entry
calls unsafe; that one event is one step is the model's, log entry 8.) -/
def Obligations.EveryPresentedCommandGetsOneResponse : Prop :=
  ∀ s : State, ∃ t : State, Sys2Proof.core.run s.pending.length s = .next t ∧ t.pending = [] ∧
    ∃ rs : List Response, t.responses = s.responses ++ rs ∧ rs.length = commandCount s.pending

/-- The invariant of Sys2Proof/Safety.lean, that a response with a fault status has `dout = 0` (R40, R255), is kept by every step.
(The list of responses is the model's, log entry 3.) -/
def Obligations.StepKeepsResponsesWellFormed : Prop :=
  ∀ s t : State, s.Inv → step s = .next t → t.Inv

/-- The invariant holds after reset. It does so because no response stands in the list then, which is the model's choice (log entry 3) and
no rule's. -/
def Obligations.ResetResponsesAreWellFormed : Prop := State.reset.Inv

/-- R260, R259: a command answered with a non-zero status has changed neither a register nor `CF` and has `dout = 0`, and what comes
next behaves exactly as if it had never been presented. -/
def Obligations.FaultLeavesNoTrace : Prop :=
  ∀ (s t u : State) (c : Command) (rest : List HostEvent) (r : Response), s.pending = .command c :: rest →
    step s = .next t → t.responses = s.responses ++ [r] → r.status ≠ 0 → step { s with pending := rest } = .next u →
    (∀ q, t.readX q = s.readX q) ∧ t.cf = s.cf ∧ r.dout = 0 ∧
    ∃ v more, step t = .next v ∧ v.x = u.x ∧ v.cf = u.cf ∧ v.responses = t.responses ++ more ∧
      u.responses = s.responses ++ more

/-- R30: the result of a command is a function of the command word, `din`, the sixteen registers and `CF` only. -/
def Obligations.ResultDependsOnUnitStateOnly : Prop :=
  ∀ (s₁ s₂ : State) (c : Command) (rest₁ rest₂ : List HostEvent), s₁.x = s₂.x → s₁.cf = s₂.cf →
    s₁.pending = .command c :: rest₁ → s₂.pending = .command c :: rest₂ →
    ∃ t₁ t₂ r, step s₁ = .next t₁ ∧ step s₂ = .next t₂ ∧ t₁.x = t₂.x ∧ t₁.cf = t₂.cf ∧
      t₁.responses = s₁.responses ++ [r] ∧ t₂.responses = s₂.responses ++ [r]

/-! ### All commands -/

/-- R32, the spec's summary of its own rules: a command whose source registers, `CF` if it reads it and `din` if it reads it are the
same in two states gives the same response, the same register result and the same `CF` result, whatever else differs. -/
def Obligations.SourcesDetermineTheResult : Prop :=
  ∀ (i : Instr) (s₁ s₂ : State), (∀ r ∈ i.sources, s₁.readX r = s₂.readX r) → (i.readsCF = true → s₁.cf = s₂.cf) →
    (i.readsDin = true → s₁.din = s₂.din) →
    ∃ t₁ t₂ r, exec i s₁ = .next t₁ ∧ exec i s₂ = .next t₂ ∧
      t₁.responses = s₁.responses ++ [r] ∧ t₂.responses = s₂.responses ++ [r] ∧
      (r.status = 0 → ∀ rd, i.destination = some rd → t₁.readX rd = t₂.readX rd) ∧
      (i.writesCF = true → t₁.cf = t₂.cf)

/-- The frame of every command (R23, R26; R32 is the spec's summary of its own rules): every register but the destination is unchanged;
`CF` is unchanged but by `ADC`, `SBB`, `CLC`, `STC`, `PUTC`; one response is added. (That the ports `pending` and `din` stay is the
model's, log entries 1 and 4.) -/
def Obligations.FrameOfEveryCommand : Prop :=
  ∀ (i : Instr) (s t : State), exec i s = .next t →
    (∀ r, i.destination ≠ some r → t.readX r = s.readX r) ∧
    ((∀ rd ra rb, i ≠ .adc rd ra rb) → (∀ rd ra rb, i ≠ .sbb rd ra rb) → i ≠ .clc → i ≠ .stc → (∀ ra, i ≠ .putc ra) →
      t.cf = s.cf) ∧
    (∃ r, t.responses = s.responses ++ [r]) ∧ t.pending = s.pending ∧ t.din = s.din

/-- R250, R40: once its word has decoded only a `BUILDC` can end with a status other than 0, and then with 2 or 3 and nothing written;
only an `RDV` can have a `dout` other than 0. That `BUILDC` is the only one is the model's reading (log entry 14): R250's closing count
disagrees with its own table and with R32, the spec's summary of its own rules. -/
def Obligations.OnlyBuildcFaultsAndOnlyRdvSendsData : Prop :=
  ∀ (i : Instr) (s : State), ∃ t r, exec i s = .next t ∧ t.responses = s.responses ++ [r] ∧
    (r.status ≠ 0 → (∃ rd ra rb rc, i = .buildc rd ra rb rc) ∧ (r.status = 2 ∨ r.status = 3) ∧ AnswersOnly s t r.status 0) ∧
    (r.dout ≠ 0 → ∃ ra, i = .rdv ra)

/-! ### Bit primitives -/

/-- `CLZ32` and `CLZ64` (R80, R85, R86). -/
def Obligations.CountLeadingZeros : Prop :=
  (∀ (w : Nat) (v : BitVec w), LeadingZeros v (clz v)) ∧
  ∀ (rd ra : Reg) (s : State),
    (decode (cwR 0x10 rd ra 0 0) = .ok (.clz32 rd ra) ∧
      ∃ n, LeadingZeros (low s ra) n ∧ Completes (.clz32 rd ra) s rd (BitVec.ofNat 64 n)) ∧
    (decode (cwR 0x11 rd ra 0 0) = .ok (.clz64 rd ra) ∧
      ∃ n, LeadingZeros (s.readX ra) n ∧ Completes (.clz64 rd ra) s rd (BitVec.ofNat 64 n))

/-- `CTZ32` and `CTZ64` (R81, R87, R88). -/
def Obligations.CountTrailingZeros : Prop :=
  (∀ (w : Nat) (v : BitVec w), TrailingZeros v (ctz v)) ∧
  ∀ (rd ra : Reg) (s : State),
    (decode (cwR 0x12 rd ra 0 0) = .ok (.ctz32 rd ra) ∧
      ∃ n, TrailingZeros (low s ra) n ∧ Completes (.ctz32 rd ra) s rd (BitVec.ofNat 64 n)) ∧
    (decode (cwR 0x13 rd ra 0 0) = .ok (.ctz64 rd ra) ∧
      ∃ n, TrailingZeros (s.readX ra) n ∧ Completes (.ctz64 rd ra) s rd (BitVec.ofNat 64 n))

/-- `POPCNT32` and `POPCNT64` (R82, R89, R90). -/
def Obligations.PopulationCount : Prop :=
  (∀ (w : Nat) (v : BitVec w), popcnt v = bitSum v) ∧
  ∀ (rd ra : Reg) (s : State),
    (decode (cwR 0x14 rd ra 0 0) = .ok (.popcnt32 rd ra) ∧
      Completes (.popcnt32 rd ra) s rd (BitVec.ofNat 64 (bitSum (low s ra)))) ∧
    (decode (cwR 0x15 rd ra 0 0) = .ok (.popcnt64 rd ra) ∧
      Completes (.popcnt64 rd ra) s rd (BitVec.ofNat 64 (bitSum (s.readX ra))))

/-- The relations between the counts that R82 and R83 mark as the spec's own inference from R80, R81 and the sum of R82. -/
def Obligations.BitCountRelations : Prop :=
  (∀ (w : Nat) (v : BitVec w), v ≠ 0 → clz v + ctz v ≤ w - 1 ∧ (clz v + ctz v = w - 1 ↔ popcnt v = 1)) ∧
  (∀ (w : Nat) (v : BitVec w), (popcnt v = 0 ↔ v = 0) ∧ (clz v = w ↔ v = 0) ∧ (ctz v = w ↔ v = 0)) ∧
  (∀ u : BitVec 32, clz (zext64 u) = 32 + clz u ∧ (u ≠ 0 → ctz (zext64 u) = ctz u) ∧ ctz (zext64 0#32) = 64) ∧
  (∀ v : Word, popcnt v = popcnt (hi32 v) + popcnt (lo32 v))

/-! ### Shifts and rotates -/

/-- `SHL32` and `SHL64` (R101, R108, R113). -/
def Obligations.ShiftLeft : Prop :=
  (∀ (w : Nat) (v : BitVec w) (n : Nat), shl v n = BitVec.ofNat w (v.toNat * 2 ^ (n % w)) ∧
    ShiftedLeft v (shl v n) (n % w)) ∧
  ∀ (rd ra rb : Reg) (s : State),
    (decode (cwR 0x20 rd ra rb 0) = .ok (.shl32 rd ra rb) ∧ ∃ r, ShiftedLeft (low s ra) r ((s.readX rb).toNat % 32) ∧
      Completes (.shl32 rd ra rb) s rd (r.setWidth 64)) ∧
    (decode (cwR 0x28 rd ra rb 0) = .ok (.shl64 rd ra rb) ∧ ∃ r, ShiftedLeft (s.readX ra) r ((s.readX rb).toNat % 64) ∧
      Completes (.shl64 rd ra rb) s rd r)

/-- `SHR32` and `SHR64` (R102, R109, R114). -/
def Obligations.ShiftRightLogical : Prop :=
  (∀ (w : Nat) (v : BitVec w) (n : Nat), shr v n = BitVec.ofNat w (v.toNat / 2 ^ (n % w)) ∧
    ShiftedRight false v (shr v n) (n % w)) ∧
  ∀ (rd ra rb : Reg) (s : State),
    (decode (cwR 0x21 rd ra rb 0) = .ok (.shr32 rd ra rb) ∧
      ∃ r, ShiftedRight false (low s ra) r ((s.readX rb).toNat % 32) ∧ Completes (.shr32 rd ra rb) s rd (r.setWidth 64)) ∧
    (decode (cwR 0x29 rd ra rb 0) = .ok (.shr64 rd ra rb) ∧
      ∃ r, ShiftedRight false (s.readX ra) r ((s.readX rb).toNat % 64) ∧ Completes (.shr64 rd ra rb) s rd r)

/-- `SAR32` and `SAR64` (R103, R110, R115): the sign bit, 31 or 63, fills; the 32-bit result is zero-extended. -/
def Obligations.ShiftRightArithmetic : Prop :=
  (∀ (w : Nat) (v : BitVec w) (n : Nat), sar v n = BitVec.ofInt w (v.toInt / 2 ^ (n % w)) ∧
    ShiftedRight (v.getLsbD (w - 1)) v (sar v n) (n % w) ∧ (v.getLsbD (w - 1) = false → sar v n = shr v n) ∧
    sar (BitVec.allOnes w) n = BitVec.allOnes w) ∧
  ∀ (rd ra rb : Reg) (s : State),
    (decode (cwR 0x22 rd ra rb 0) = .ok (.sar32 rd ra rb) ∧
      ∃ r, ShiftedRight ((s.readX ra).getLsbD 31) (low s ra) r ((s.readX rb).toNat % 32) ∧
        Completes (.sar32 rd ra rb) s rd (r.setWidth 64)) ∧
    (decode (cwR 0x2A rd ra rb 0) = .ok (.sar64 rd ra rb) ∧
      ∃ r, ShiftedRight ((s.readX ra).getLsbD 63) (s.readX ra) r ((s.readX rb).toNat % 64) ∧
        Completes (.sar64 rd ra rb) s rd r)

/-- `ROL32` and `ROL64` (R104, R111, R116). -/
def Obligations.RotateLeft : Prop :=
  (∀ (w : Nat) (v : BitVec w) (n : Nat), RotatedLeft v (rol v n) (n % w) ∧ (n % w = 0 → rol v n = v) ∧
    (n % w ≠ 0 → rol v n = BitVec.ofNat w (v.toNat * 2 ^ (n % w)) ||| BitVec.ofNat w (v.toNat / 2 ^ (w - n % w)))) ∧
  ∀ (rd ra rb : Reg) (s : State),
    (decode (cwR 0x23 rd ra rb 0) = .ok (.rol32 rd ra rb) ∧ ∃ r, RotatedLeft (low s ra) r ((s.readX rb).toNat % 32) ∧
      Completes (.rol32 rd ra rb) s rd (r.setWidth 64)) ∧
    (decode (cwR 0x2B rd ra rb 0) = .ok (.rol64 rd ra rb) ∧ ∃ r, RotatedLeft (s.readX ra) r ((s.readX rb).toNat % 64) ∧
      Completes (.rol64 rd ra rb) s rd r)

/-- `ROR32` and `ROR64` (R105, R112, R117). -/
def Obligations.RotateRight : Prop :=
  (∀ (w : Nat) (v : BitVec w) (n : Nat), RotatedRight v (ror v n) (n % w) ∧ (n % w = 0 → ror v n = v) ∧
    (n % w ≠ 0 → ror v n = BitVec.ofNat w (v.toNat / 2 ^ (n % w)) ||| BitVec.ofNat w (v.toNat * 2 ^ (w - n % w)))) ∧
  ∀ (rd ra rb : Reg) (s : State),
    (decode (cwR 0x24 rd ra rb 0) = .ok (.ror32 rd ra rb) ∧ ∃ r, RotatedRight (low s ra) r ((s.readX rb).toNat % 32) ∧
      Completes (.ror32 rd ra rb) s rd (r.setWidth 64)) ∧
    (decode (cwR 0x2C rd ra rb 0) = .ok (.ror64 rd ra rb) ∧ ∃ r, RotatedRight (s.readX ra) r ((s.readX rb).toNat % 64) ∧
      Completes (.ror64 rd ra rb) s rd r)

/-- The laws of R106, for every amount, at 32 and 64 bits; those of its part (c) the spec marks as its own inference from R100 to R105. -/
def Obligations.ShiftAndRotateLaws : Prop :=
  ∀ (w : Nat), w = 32 ∨ w = 64 → ∀ (v : BitVec w) (n : Nat),
    ror (rol v n) n = v ∧ rol (ror v n) n = v ∧ rol v n = ror v (w - n % w) ∧
    shl v (n + w) = shl v n ∧ shr v (n + w) = shr v n ∧ sar v (n + w) = sar v n ∧ rol v (n + w) = rol v n ∧
    ror v (n + w) = ror v n ∧
    (n % w = 0 → shl v n = v ∧ shr v n = v ∧ sar v n = v ∧ rol v n = v ∧ ror v n = v) ∧
    popcnt (rol v n) = popcnt v

/-- R106 (a) by commands: `ROL64` then `ROR64` by the same amount register restores the value; so do `ROL32` and `ROR32` the low half. -/
def Obligations.RotateLeftThenRightRestores : Prop :=
  ∀ (rd ra rb re : Reg) (s : State), rd ≠ rb →
    (∃ t u, exec (.rol64 rd ra rb) s = .next t ∧ exec (.ror64 re rd rb) t = .next u ∧ u.readX re = s.readX ra) ∧
    (∃ t u, exec (.rol32 rd ra rb) s = .next t ∧ exec (.ror32 re rd rb) t = .next u ∧
      (u.readX re).toNat = (s.readX ra).toNat % 2 ^ 32)

/-! ### Carry adder -/

/-- `ADC` (R130, R133): the pair of flag and result is the exact sum. -/
def Obligations.AddWithCarryIsExact : Prop :=
  (∀ (a b : Word) (c : Bool), (adc a b c).1.toNat = (a.toNat + b.toNat + c.toNat) % 2 ^ 64 ∧
    ((adc a b c).2 = true ↔ 2 ^ 64 ≤ a.toNat + b.toNat + c.toNat) ∧
    (adc a b c).2.toNat * 2 ^ 64 + (adc a b c).1.toNat = a.toNat + b.toNat + c.toNat) ∧
  ∀ (rd ra rb : Reg) (s : State), decode (cwR 0x30 rd ra rb 0) = .ok (.adc rd ra rb) ∧
    ∃ t, exec (.adc rd ra rb) s = .next t ∧
      t.cf.toNat * 2 ^ 64 + (t.readX rd).toNat = (s.readX ra).toNat + (s.readX rb).toNat + s.cf.toNat ∧
      (∀ r, r ≠ rd → t.readX r = s.readX r) ∧ t.responses = s.responses ++ [⟨0, 0⟩]

/-- `SBB` (R131, R134): the exact difference, and the borrow by the comparison of exact integers. The equation of the difference with the
result and the borrow is the spec's own inference in R131; it is how the command's result is stated here. -/
def Obligations.SubtractWithBorrowIsExact : Prop :=
  (∀ (a b : Word) (c : Bool), ((sbb a b c).1.toNat : Int) = ((a.toNat : Int) - b.toNat - c.toNat) % 2 ^ 64 ∧
    ((sbb a b c).2 = true ↔ a.toNat < b.toNat + c.toNat) ∧
    ((sbb a b c).1.toNat : Int) - (sbb a b c).2.toNat * 2 ^ 64 = a.toNat - b.toNat - c.toNat) ∧
  ∀ (rd ra rb : Reg) (s : State), decode (cwR 0x31 rd ra rb 0) = .ok (.sbb rd ra rb) ∧
    ∃ t, exec (.sbb rd ra rb) s = .next t ∧
      ((t.readX rd).toNat : Int) - t.cf.toNat * 2 ^ 64 = (s.readX ra).toNat - (s.readX rb).toNat - s.cf.toNat ∧
      (t.cf = true ↔ (s.readX ra).toNat < (s.readX rb).toNat + s.cf.toNat) ∧
      (∀ r, r ≠ rd → t.readX r = s.readX r) ∧ t.responses = s.responses ++ [⟨0, 0⟩]

/-- `CLC`, `STC`, `GETC`, `PUTC` (R135 to R138), and `GETC xd` followed by `PUTC xd` leaves `CF` as it was. -/
def Obligations.FlagCommands : Prop :=
  ∀ s : State,
    (decode 0x38000000#32 = .ok .clc ∧ ∃ t, exec .clc s = .next t ∧ WritesFlagOnly s t false) ∧
    (decode 0x39000000#32 = .ok .stc ∧ ∃ t, exec .stc s = .next t ∧ WritesFlagOnly s t true) ∧
    (∀ rd : Reg, decode (cwR 0x3A rd 0 0 0) = .ok (.getc rd) ∧
      Completes (.getc rd) s rd (BitVec.ofNat 64 s.cf.toNat)) ∧
    (∀ ra : Reg, decode (cwR 0x3B 0 ra 0 0) = .ok (.putc ra) ∧
      ∃ t, exec (.putc ra) s = .next t ∧ WritesFlagOnly s t (decide ((s.readX ra).toNat % 2 = 1))) ∧
    (∀ rd : Reg, ∃ t u, exec (.getc rd) s = .next t ∧ exec (.putc rd) t = .next u ∧ u.cf = s.cf)

/-- R132: chained additions and subtractions are exact on integers of any number of limbs, and the final borrow is 1 exactly when
A < B. The spec marks the rule as its own inference from R130 and R131. -/
def Obligations.ChainingIsExact : Prop :=
  ∀ pairs : List (Word × Word),
    limbs (chain adc pairs false).1 + (chain adc pairs false).2.toNat * 2 ^ (64 * pairs.length)
      = limbs (pairs.map (·.1)) + limbs (pairs.map (·.2)) ∧
    (limbs (chain sbb pairs false).1 : Int) - (chain sbb pairs false).2.toNat * 2 ^ (64 * pairs.length)
      = limbs (pairs.map (·.1)) - limbs (pairs.map (·.2)) ∧
    ((chain sbb pairs false).2 = true ↔ limbs (pairs.map (·.1)) < limbs (pairs.map (·.2)))

/-! ### Int64-alu -/

/-- `NEG`, `NOT`, `ABS` (R151 to R153). -/
def Obligations.NegateComplementAbsolute : Prop :=
  ∀ (rd ra : Reg) (s : State),
    (decode (cwR 0x40 rd ra 0 0) = .ok (.neg rd ra) ∧
      ∃ v, Completes (.neg rd ra) s rd v ∧ v.toNat = (2 ^ 64 - (s.readX ra).toNat) % 2 ^ 64) ∧
    (decode (cwR 0x41 rd ra 0 0) = .ok (.not rd ra) ∧
      ∃ v, Completes (.not rd ra) s rd v ∧ v.toNat = 2 ^ 64 - 1 - (s.readX ra).toNat) ∧
    (decode (cwR 0x42 rd ra 0 0) = .ok (.abs rd ra) ∧
      ∃ v, Completes (.abs rd ra) s rd v ∧
        v.toNat = if 2 ^ 63 ≤ (s.readX ra).toNat then 2 ^ 64 - (s.readX ra).toNat else (s.readX ra).toNat)

/-- `ADD`, `SUB`, `RSUB` (R154 to R156): the true result modulo 2^64, the same under the signed reading (R160). -/
def Obligations.AddSubtractWrap : Prop :=
  ∀ (rd ra rb : Reg) (s : State),
    (decode (cwR 0x44 rd ra rb 0) = .ok (.add rd ra rb) ∧ ∃ v, Completes (.add rd ra rb) s rd v ∧
      v.toNat = ((s.readX ra).toNat + (s.readX rb).toNat) % 2 ^ 64 ∧
      v = BitVec.ofInt 64 ((s.readX ra).toInt + (s.readX rb).toInt)) ∧
    (decode (cwR 0x45 rd ra rb 0) = .ok (.sub rd ra rb) ∧ ∃ v, Completes (.sub rd ra rb) s rd v ∧
      (v.toNat : Int) = ((s.readX ra).toNat - (s.readX rb).toNat) % 2 ^ 64 ∧
      v = BitVec.ofInt 64 ((s.readX ra).toInt - (s.readX rb).toInt)) ∧
    (decode (cwR 0x46 rd ra rb 0) = .ok (.rsub rd ra rb) ∧ ∃ v, Completes (.rsub rd ra rb) s rd v ∧
      (v.toNat : Int) = ((s.readX rb).toNat - (s.readX ra).toNat) % 2 ^ 64 ∧
      v = BitVec.ofInt 64 ((s.readX rb).toInt - (s.readX ra).toInt))

/-- `AND`, `OR`, `XOR` (R157 to R159), bit by bit. -/
def Obligations.BitwiseCommands : Prop :=
  ∀ (rd ra rb : Reg) (s : State),
    (decode (cwR 0x47 rd ra rb 0) = .ok (.and rd ra rb) ∧ ∃ v, Completes (.and rd ra rb) s rd v ∧
      ∀ i, i < 64 → (v.getLsbD i).toNat = ((s.readX ra).getLsbD i).toNat * ((s.readX rb).getLsbD i).toNat) ∧
    (decode (cwR 0x48 rd ra rb 0) = .ok (.or rd ra rb) ∧ ∃ v, Completes (.or rd ra rb) s rd v ∧
      ∀ i, i < 64 → (v.getLsbD i = true ↔ (s.readX ra).getLsbD i = true ∨ (s.readX rb).getLsbD i = true)) ∧
    (decode (cwR 0x49 rd ra rb 0) = .ok (.xor rd ra rb) ∧ ∃ v, Completes (.xor rd ra rb) s rd v ∧
      ∀ i, i < 64 → (v.getLsbD i).toNat = (((s.readX ra).getLsbD i).toNat + ((s.readX rb).getLsbD i).toNat) % 2)

/-- `ISZERO` and `EQ` (R171, R172). -/
def Obligations.EqualityTests : Prop :=
  ∀ (rd ra rb : Reg) (s : State),
    (decode (cwR 0x50 rd ra 0 0) = .ok (.iszero rd ra) ∧
      Completes (.iszero rd ra) s rd (if (s.readX ra).toNat = 0 then 1 else 0)) ∧
    (decode (cwR 0x51 rd ra rb 0) = .ok (.eq rd ra rb) ∧
      Completes (.eq rd ra rb) s rd (if (s.readX ra).toNat = (s.readX rb).toNat then 1 else 0))

/-- `LT`, `GT`, `ILT`, `IGT` (R173 to R176). -/
def Obligations.OrderTests : Prop :=
  ∀ (rd ra rb : Reg) (s : State),
    (decode (cwR 0x52 rd ra rb 0) = .ok (.lt rd ra rb) ∧
      Completes (.lt rd ra rb) s rd (if (s.readX ra).toNat < (s.readX rb).toNat then 1 else 0)) ∧
    (decode (cwR 0x53 rd ra rb 0) = .ok (.gt rd ra rb) ∧
      Completes (.gt rd ra rb) s rd (if (s.readX ra).toNat > (s.readX rb).toNat then 1 else 0)) ∧
    (decode (cwR 0x54 rd ra rb 0) = .ok (.ilt rd ra rb) ∧
      Completes (.ilt rd ra rb) s rd (if (s.readX ra).toInt < (s.readX rb).toInt then 1 else 0)) ∧
    (decode (cwR 0x55 rd ra rb 0) = .ok (.igt rd ra rb) ∧
      Completes (.igt rd ra rb) s rd (if (s.readX ra).toInt > (s.readX rb).toInt then 1 else 0))

/-- `CMP` and `SCMP` (R177 to R179): -1, 0 or +1 as the first operand is less than, equal to or greater than the second. -/
def Obligations.ThreeWayComparisons : Prop :=
  ∀ (rd ra rb : Reg) (s : State),
    decode (cwR 0x56 rd ra rb 0) = .ok (.cmp rd ra rb) ∧ decode (cwR 0x57 rd ra rb 0) = .ok (.scmp rd ra rb) ∧
    ((s.readX ra).toNat < (s.readX rb).toNat → Completes (.cmp rd ra rb) s rd 0xFFFFFFFFFFFFFFFF#64) ∧
    ((s.readX ra).toNat > (s.readX rb).toNat → Completes (.cmp rd ra rb) s rd 1) ∧
    ((s.readX ra).toInt < (s.readX rb).toInt → Completes (.scmp rd ra rb) s rd 0xFFFFFFFFFFFFFFFF#64) ∧
    ((s.readX ra).toInt > (s.readX rb).toInt → Completes (.scmp rd ra rb) s rd 1) ∧
    (s.readX ra = s.readX rb → Completes (.cmp rd ra rb) s rd 0 ∧ Completes (.scmp rd ra rb) s rd 0)

/-- R177: the three-way comparison functions, the source's two examples, and where the two orders agree and disagree
(that they agree when both signs are 1 the spec marks as its own inference). -/
def Obligations.ThreeWayFunctions : Prop :=
  (∀ a b : Word,
    (a.toNat < b.toNat → cmpU a b = -1) ∧ (a = b → cmpU a b = 0) ∧ (a.toNat > b.toNat → cmpU a b = 1) ∧
    (a.toInt < b.toInt → cmpS a b = -1) ∧ (a = b → cmpS a b = 0) ∧ (a.toInt > b.toInt → cmpS a b = 1) ∧
    (a.getLsbD 63 = b.getLsbD 63 → cmpU a b = cmpS a b) ∧ (a.getLsbD 63 ≠ b.getLsbD 63 → cmpU a b ≠ cmpS a b)) ∧
  cmpU 0xFFFFFFFFFFFFFFFF#64 1 = 1 ∧ cmpS 0xFFFFFFFFFFFFFFFF#64 1 = -1

/-- The relations of R180 among the comparison commands, run on the same registers; the spec marks the rule as its own inference from R172
to R179. -/
def Obligations.ComparisonRelations : Prop :=
  ∀ (rd ra rb : Reg) (s : State), ∃ c sc l e g il ig z : Word,
    Completes (.cmp rd ra rb) s rd c ∧ Completes (.scmp rd ra rb) s rd sc ∧ Completes (.lt rd ra rb) s rd l ∧
    Completes (.eq rd ra rb) s rd e ∧ Completes (.gt rd ra rb) s rd g ∧ Completes (.ilt rd ra rb) s rd il ∧
    Completes (.igt rd ra rb) s rd ig ∧ Completes (.iszero rd ra) s rd z ∧
    (c = 0xFFFFFFFFFFFFFFFF#64 ↔ l = 1) ∧ (c = 1 ↔ g = 1) ∧ (c = 0 ↔ e = 1) ∧
    (sc = 0xFFFFFFFFFFFFFFFF#64 ↔ il = 1) ∧ (sc = 1 ↔ ig = 1) ∧ (sc = 0 ↔ e = 1) ∧
    l.toNat + e.toNat + g.toNat = 1 ∧ il.toNat + e.toNat + ig.toNat = 1 ∧
    (∀ t : State, t.readX ra = s.readX ra ^^^ 0x8000000000000000#64 →
      t.readX rb = s.readX rb ^^^ 0x8000000000000000#64 → Completes (.lt rd ra rb) t rd il) ∧
    (s.readX rb = 0 → z = e)

/-! ### Construction, accessors, transfer -/

/-- `CLR`, `MOV`, `LI`, `LIS` (R191 to R194). -/
def Obligations.ConstructionCommands : Prop :=
  ∀ (rd ra : Reg) (imm : Imm16) (s : State),
    (decode (cwR 0x60 rd 0 0 0) = .ok (.clr rd) ∧ Completes (.clr rd) s rd 0) ∧
    (decode (cwR 0x61 rd ra 0 0) = .ok (.mov rd ra) ∧ Completes (.mov rd ra) s rd (s.readX ra)) ∧
    (decode (cwI 0x62 rd imm.toNat) = .ok (.li rd imm) ∧
      Completes (.li rd imm) s rd (BitVec.ofNat 64 imm.toNat)) ∧
    (decode (cwI 0x63 rd imm.toNat) = .ok (.lis rd imm) ∧
      Completes (.lis rd imm) s rd (BitVec.ofInt 64 imm.toInt))

/-- `LDV` and `RDV` (R195, R196): the register takes the `din` presented with the word, the response takes the register; every other
command gives the same result whatever `din` is, and every other command's `dout` is 0. -/
def Obligations.HostTransfer : Prop :=
  (∀ (r : Reg) (din : Word) (rest : List HostEvent) (s : State),
    (decode (cwR 0x64 r 0 0 0) = .ok (.ldv r) ∧ Completes (.ldv r) s r s.din ∧
      (s.pending = .command ⟨cwR 0x64 r 0 0 0, din⟩ :: rest → ∃ t, step s = .next t ∧ WritesOnly s t r din)) ∧
    (decode (cwR 0x65 0 r 0 0) = .ok (.rdv r) ∧ ∃ t, exec (.rdv r) s = .next t ∧ AnswersOnly s t 0 (s.readX r))) ∧
  (∀ (i : Instr) (s : State) (din : Word), (∀ rd, i ≠ .ldv rd) →
    ∃ t, exec i s = .next t ∧ exec i { s with din := din } = .next { t with din := din }) ∧
  (∀ (i : Instr) (s : State), (∀ ra, i ≠ .rdv ra) →
    ∃ t r, exec i s = .next t ∧ t.responses = s.responses ++ [r] ∧ r.dout = 0)

/-- `MKU` and `MKS` (R198, R199), and that they give the same result (the spec's inference in R200). -/
def Obligations.TwoHalvesConstruction : Prop :=
  ∀ (rd ra rb : Reg) (s : State),
    decode (cwR 0x66 rd ra rb 0) = .ok (.mku rd ra rb) ∧ decode (cwR 0x67 rd ra rb 0) = .ok (.mks rd ra rb) ∧
    ∃ v, Completes (.mku rd ra rb) s rd v ∧ Completes (.mks rd ra rb) s rd v ∧
      v.toNat = (s.readX ra).toNat % 2 ^ 32 * 2 ^ 32 + (s.readX rb).toNat % 2 ^ 32

/-- `SIGN`, `GHI`, `GLO` (R201 to R203). -/
def Obligations.SignAndHalves : Prop :=
  ∀ (rd ra : Reg) (s : State),
    (decode (cwR 0x68 rd ra 0 0) = .ok (.sign rd ra) ∧
      Completes (.sign rd ra) s rd (BitVec.ofNat 64 ((s.readX ra).toNat / 2 ^ 63))) ∧
    (decode (cwR 0x69 rd ra 0 0) = .ok (.ghi rd ra) ∧
      Completes (.ghi rd ra) s rd (BitVec.ofNat 64 ((s.readX ra).toNat / 2 ^ 32))) ∧
    (decode (cwR 0x6A rd ra 0 0) = .ok (.glo rd ra) ∧
      Completes (.glo rd ra) s rd (BitVec.ofNat 64 ((s.readX ra).toNat % 2 ^ 32)))

/-- `SHI` and `SLO` (R204, R205), `rd = ra` included. -/
def Obligations.HalfWrites : Prop :=
  ∀ (rd ra : Reg) (s : State),
    (decode (cwR 0x6B rd ra 0 0) = .ok (.shi rd ra) ∧ ∃ v, Completes (.shi rd ra) s rd v ∧
      v.toNat = (s.readX ra).toNat % 2 ^ 32 * 2 ^ 32 + (s.readX rd).toNat % 2 ^ 32) ∧
    (decode (cwR 0x6C rd ra 0 0) = .ok (.slo rd ra) ∧ ∃ v, Completes (.slo rd ra) s rd v ∧
      v.toNat = (s.readX rd).toNat / 2 ^ 32 * 2 ^ 32 + (s.readX ra).toNat % 2 ^ 32)

/-! ### Codec -/

/-- `BUILD` (R222, R228): for any register contents, valid triple or not. -/
def Obligations.BuildIsUnchecked : Prop :=
  (∀ (s : Bool) (m : Word) (e : Int), ((buildBinary64 s m e).toNat : Int)
    = (if s then 2 ^ 63 else 0) + (e + 1023) % 2048 * 2 ^ 52 + (m.toNat % 2 ^ 52 : Nat)) ∧
  ∀ (rd ra rb rc : Reg) (s : State), decode (cwR 0x70 rd ra rb rc) = .ok (.build rd ra rb rc) ∧
    ∃ v, Completes (.build rd ra rb rc) s rd v ∧ (v.toNat : Int) = builtNumber s ra rb rc

/-- `BUILDC` (R223, R229): with the exponent in range and bit 52 of the mantissa as its exponent requires, it completes, with the result
of `BUILD`; otherwise it raises RangeError or InvariantViolation and nothing is written. -/
def Obligations.CheckedBuild : Prop :=
  ∀ (rd ra rb rc : Reg) (s : State), decode (cwR 0x71 rd ra rb rc) = .ok (.buildc rd ra rb rc) ∧
    (((-1022 ≤ (s.readX rc).toInt ∧ (s.readX rc).toInt ≤ 1023 ∧ (s.readX rb).getLsbD 52 = true) ∨
      (((s.readX rc).toInt = -1023 ∨ (s.readX rc).toInt = 1024) ∧ (s.readX rb).getLsbD 52 = false) →
      ∃ v, Completes (.buildc rd ra rb rc) s rd v ∧ Completes (.build rd ra rb rc) s rd v ∧
        (v.toNat : Int) = builtNumber s ra rb rc)) ∧
    ((s.readX rc).toInt < -1023 ∨ (s.readX rc).toInt > 1024 →
      ∃ t, exec (.buildc rd ra rb rc) s = .next t ∧ AnswersOnly s t 2 0) ∧
    ((-1022 ≤ (s.readX rc).toInt ∧ (s.readX rc).toInt ≤ 1023 ∧ (s.readX rb).getLsbD 52 = false) ∨
      (((s.readX rc).toInt = -1023 ∨ (s.readX rc).toInt = 1024) ∧ (s.readX rb).getLsbD 52 = true) →
      ∃ t, exec (.buildc rd ra rb rc) s = .next t ∧ AnswersOnly s t 3 0)

/-- R252 and R253 at the command port: presenting a `BUILDC` word whose exponent register is out of range is answered with status 2, and
one whose bit 52 does not suit its exponent with status 3, whatever its `din`, with no change of state. -/
def Obligations.BuildcFaultsAreReported : Prop :=
  ∀ (rd ra rb rc : Reg) (din : Word) (rest : List HostEvent) (s : State),
    s.pending = .command ⟨cwR 0x71 rd ra rb rc, din⟩ :: rest →
    ((s.readX rc).toInt < -1023 ∨ (s.readX rc).toInt > 1024 → ∃ t, step s = .next t ∧ AnswersOnly s t 2 0) ∧
    (((s.readX rb).getLsbD 52 = false ∧ -1022 ≤ (s.readX rc).toInt ∧ (s.readX rc).toInt ≤ 1023) ∨
      ((s.readX rb).getLsbD 52 = true ∧ ((s.readX rc).toInt = -1023 ∨ (s.readX rc).toInt = 1024)) →
      ∃ t, step s = .next t ∧ AnswersOnly s t 3 0)

/-- `FSIGN`, `FMANT`, `FEXP` (R224, R230 to R232). -/
def Obligations.SplitComponents : Prop :=
  ∀ (rd ra : Reg) (s : State),
    (decode (cwR 0x72 rd ra 0 0) = .ok (.fsign rd ra) ∧
      Completes (.fsign rd ra) s rd (if (s.readX ra).toNat < 2 ^ 63 then 1 else 0xFFFFFFFFFFFFFFFF#64)) ∧
    (decode (cwR 0x73 rd ra 0 0) = .ok (.fmant rd ra) ∧ ∃ v, Completes (.fmant rd ra) s rd v ∧
      v.toNat = (s.readX ra).toNat % 2 ^ 52 + if expField s ra = 0 ∨ expField s ra = 2047 then 0 else 2 ^ 52) ∧
    (decode (cwR 0x74 rd ra 0 0) = .ok (.fexp rd ra) ∧ ∃ v, Completes (.fexp rd ra) s rd v ∧
      v.toInt = (expField s ra : Int) - 1023)

/-- `FEXC` and `FNRM` (R233, R234), whose results are opposite, and the single-comparison form of `isExceptional` (R225,
which the spec closes as its own inference). -/
def Obligations.ExceptionalAndNormal : Prop :=
  ∀ (rd ra : Reg) (s : State),
    (decode (cwR 0x75 rd ra 0 0) = .ok (.fexc rd ra) ∧
      Completes (.fexc rd ra) s rd (if expField s ra = 0 ∨ expField s ra = 2047 then 1 else 0)) ∧
    (decode (cwR 0x76 rd ra 0 0) = .ok (.fnrm rd ra) ∧
      Completes (.fnrm rd ra) s rd (if expField s ra = 0 ∨ expField s ra = 2047 then 0 else 1)) ∧
    (∀ n, 11 ≤ n → (isExceptional (s.readX ra) = true ↔ 2046 ≤ (BitVec.ofInt n ((expField s ra : Int) - 1)).toNat))

/-- What split returns per class of pattern: R226, which the spec marks as its own inference from R221 and R224. Which fraction
is a zero, a subnormal, an infinity or a NaN is R221's general-knowledge passage, PRESUMED in log entry 13. -/
def Obligations.SplitPerClass : Prop :=
  ∀ p : Word,
    (splitBinary64 p).sign = (if p.getLsbD 63 then -1 else 1) ∧
    (classify p = .zero → (splitBinary64 p).isExceptional = true ∧ (splitBinary64 p).exponent = -1023 ∧
      (splitBinary64 p).mantissa.toNat = 0) ∧
    (classify p = .subnormal → (splitBinary64 p).isExceptional = true ∧ (splitBinary64 p).exponent = -1023 ∧
      (splitBinary64 p).mantissa.toNat = p.toNat % 2 ^ 52 ∧ p.toNat % 2 ^ 52 ≠ 0) ∧
    (classify p = .normal → (splitBinary64 p).isExceptional = false ∧ -1022 ≤ (splitBinary64 p).exponent ∧
      (splitBinary64 p).exponent ≤ 1023 ∧ (splitBinary64 p).mantissa.toNat = 2 ^ 52 + p.toNat % 2 ^ 52) ∧
    (classify p = .infinity → (splitBinary64 p).isExceptional = true ∧ (splitBinary64 p).exponent = 1024 ∧
      (splitBinary64 p).mantissa.toNat = 0) ∧
    (classify p = .nan → (splitBinary64 p).isExceptional = true ∧ (splitBinary64 p).exponent = 1024 ∧
      (splitBinary64 p).mantissa.toNat = p.toNat % 2 ^ 52 ∧ p.toNat % 2 ^ 52 ≠ 0) ∧
    valid (splitBinary64 p).mantissa (splitBinary64 p).exponent = true

/-- R227: the round trips of build and split: (a) a valid normal triple of 53 bits, and what comes back of a wider mantissa; (b) every
pattern; (c) a valid exceptional triple; (d) zero. Parts (b) and (c), and of (a) what comes back
of a wider mantissa, the spec marks as its own inference from R222 and R224. -/
def Obligations.RoundTrips : Prop :=
  (∀ (s : Bool) (m : Word) (e : Int), -1022 ≤ e → e ≤ 1023 → m.getLsbD 52 = true →
    (m.toNat < 2 ^ 53 → splitBinary64 (buildBinary64 s m e) = ⟨if s then -1 else 1, m, e, false⟩) ∧
    (splitBinary64 (buildBinary64 s m e)).mantissa.toNat = m.toNat % 2 ^ 53) ∧
  (∀ p : Word, buildBinary64 (decide ((splitBinary64 p).sign = -1)) (splitBinary64 p).mantissa
    (splitBinary64 p).exponent = p) ∧
  (∀ (s : Bool) (m : Word) (e : Int), e = -1023 ∨ e = 1024 → m.toNat < 2 ^ 52 →
    splitBinary64 (buildBinary64 s m e) = ⟨if s then -1 else 1, m, e, true⟩) ∧
  buildBinary64 false 0 (-1023) = 0 ∧ splitBinary64 0 = ⟨1, 0, -1023, true⟩

/-- R227 (b), the spec's own inference, by commands: `FSIGN`, `FMANT`, `FEXP` and then `BUILDC` give back every one of the 2^64
patterns, NaNs included, and no step faults. That `xp` differs from `xs` and `xm` keeps the source as R60 (c) does (`xp` may be `xe`
here, since nothing reads it after `FEXP`); that `xs`, `xm` and `xe` differ from each other is this statement's own premise: with one
register for two components, one of them is lost. -/
def Obligations.SplitThenBuildIsIdentity : Prop :=
  ∀ (xp xs xm xe xd : Reg) (s : State), xs ≠ xm → xs ≠ xe → xm ≠ xe → xp ≠ xs → xp ≠ xm →
    ∃ t₁ t₂ t₃ t₄, exec (.fsign xs xp) s = .next t₁ ∧ exec (.fmant xm xp) t₁ = .next t₂ ∧
      exec (.fexp xe xp) t₂ = .next t₃ ∧ exec (.buildc xd xs xm xe) t₃ = .next t₄ ∧
      t₄.readX xd = s.readX xp ∧
      t₄.responses = s.responses ++ [⟨0, 0⟩, ⟨0, 0⟩, ⟨0, 0⟩, ⟨0, 0⟩]

/-- R227 (a) by commands: a valid normal triple built by `BUILDC` splits back into itself, with `isExceptional` false and `isNormal`
true. -/
def Obligations.BuildThenSplitIsIdentity : Prop :=
  ∀ (xs xm xe xd r : Reg) (s : State), s.readX xs = 1 ∨ s.readX xs = 0xFFFFFFFFFFFFFFFF#64 →
    -1022 ≤ (s.readX xe).toInt → (s.readX xe).toInt ≤ 1023 →
    2 ^ 52 ≤ (s.readX xm).toNat → (s.readX xm).toNat < 2 ^ 53 →
    ∃ t, exec (.buildc xd xs xm xe) s = .next t ∧ Completes (.fsign r xd) t r (s.readX xs) ∧
      Completes (.fmant r xd) t r (s.readX xm) ∧ Completes (.fexp r xd) t r (s.readX xe) ∧
      Completes (.fexc r xd) t r 0 ∧ Completes (.fnrm r xd) t r 1
end

