-- ==== Sys2Proof/Laws/Encoding.lean ====
section
/-! SUPPORT. The fields of a command word as one concatenation of six, and what reading a field of a built word gives (spec/30_encoding.md
R51). -/

namespace Sys2Proof

/-- The six fields of format R, `zero8` included, as a word. -/
def word6 (op : BitVec 8) (d a b c : BitVec 4) (z : BitVec 8) : CommandWord := op ++ d ++ a ++ b ++ c ++ z

theorem getLsbD_word6 (op : BitVec 8) (d a b c : BitVec 4) (z : BitVec 8) (i : Nat) :
    (word6 op d a b c z).getLsbD i =
      if i < 8 then z.getLsbD i else if i < 12 then c.getLsbD (i - 8) else if i < 16 then b.getLsbD (i - 12)
      else if i < 20 then a.getLsbD (i - 16) else if i < 24 then d.getLsbD (i - 20) else op.getLsbD (i - 24) := by
  refine (BitVec.getLsbD_append (x := op ++ d ++ a ++ b ++ c) (y := z) (i := i)).trans ?_
  simp only [BitVec.getLsbD_append]
  split_ifs <;> first | rfl | omega

theorem wordR_eq_word6 (op : BitVec 8) (d a b c : BitVec 4) : wordR op d a b c = word6 op d a b c 0 := rfl

theorem wordI_eq_word6 (op : BitVec 8) (d : BitVec 4) (imm : Imm16) :
    wordI op d imm = word6 op d 0 (imm.extractLsb' 12 4) (imm.extractLsb' 8 4) (imm.extractLsb' 0 8) := by
  apply BitVec.eq_of_getLsbD_eq
  intro i hi
  rw [getLsbD_word6]
  refine (BitVec.getLsbD_append (x := op ++ d ++ 0#4) (y := imm) (i := i)).trans ?_
  simp only [BitVec.getLsbD_append, BitVec.getLsbD_extractLsb']
  split_ifs <;> first
    | omega
    | rfl
    | (rw [decide_eq_true (by omega), Bool.true_and]; congr 1; omega)

/-! ### Reading a field back -/

section Fields
variable (op : BitVec 8) (d a b c : BitVec 4) (z : BitVec 8)

@[simp] theorem opcodeOf_word6 : opcodeOf (word6 op d a b c z) = op := by
  apply BitVec.eq_of_getLsbD_eq
  intro i hi
  rw [opcodeOf, BitVec.getLsbD_extractLsb', getLsbD_word6, decide_eq_true hi, Bool.true_and]
  split_ifs <;> first | omega | (congr 1; omega)

@[simp] theorem rdOf_word6 : rdOf (word6 op d a b c z) = d := by
  apply BitVec.eq_of_getLsbD_eq
  intro i hi
  rw [rdOf, BitVec.getLsbD_extractLsb', getLsbD_word6, decide_eq_true hi, Bool.true_and]
  split_ifs <;> first | omega | (congr 1; omega)

@[simp] theorem raOf_word6 : raOf (word6 op d a b c z) = a := by
  apply BitVec.eq_of_getLsbD_eq
  intro i hi
  rw [raOf, BitVec.getLsbD_extractLsb', getLsbD_word6, decide_eq_true hi, Bool.true_and]
  split_ifs <;> first | omega | (congr 1; omega)

@[simp] theorem rbOf_word6 : rbOf (word6 op d a b c z) = b := by
  apply BitVec.eq_of_getLsbD_eq
  intro i hi
  rw [rbOf, BitVec.getLsbD_extractLsb', getLsbD_word6, decide_eq_true hi, Bool.true_and]
  split_ifs <;> first | omega | (congr 1; omega)

@[simp] theorem rcOf_word6 : rcOf (word6 op d a b c z) = c := by
  apply BitVec.eq_of_getLsbD_eq
  intro i hi
  rw [rcOf, BitVec.getLsbD_extractLsb', getLsbD_word6, decide_eq_true hi, Bool.true_and]
  split_ifs <;> first | omega | (congr 1; omega)

@[simp] theorem zero8Of_word6 : zero8Of (word6 op d a b c z) = z := by
  apply BitVec.eq_of_getLsbD_eq
  intro i hi
  rw [zero8Of, BitVec.getLsbD_extractLsb', getLsbD_word6, decide_eq_true hi, Bool.true_and]
  split_ifs <;> first | omega | (congr 1; omega)

end Fields

/-- Every word is the concatenation of its six fields. -/
theorem word6_fields (w : CommandWord) :
    word6 (opcodeOf w) (rdOf w) (raOf w) (rbOf w) (rcOf w) (zero8Of w) = w := by
  apply BitVec.eq_of_getLsbD_eq
  intro i hi
  rw [getLsbD_word6]
  simp only [opcodeOf, rdOf, raOf, rbOf, rcOf, zero8Of, BitVec.getLsbD_extractLsb']
  split_ifs <;> (rw [decide_eq_true (by omega), Bool.true_and]; congr 1; omega)

@[simp] theorem imm16Of_wordI (op : BitVec 8) (d : BitVec 4) (imm : Imm16) : imm16Of (wordI op d imm) = imm := by
  apply BitVec.eq_of_getLsbD_eq
  intro i hi
  rw [imm16Of, BitVec.getLsbD_extractLsb', decide_eq_true hi, Bool.true_and]
  refine (BitVec.getLsbD_append (x := op ++ d ++ 0#4) (y := imm) (i := 0 + i)).trans ?_
  rw [if_pos (by omega), Nat.zero_add]

/-- The low three fields of a word are its immediate. -/
theorem imm16Of_word6 (op : BitVec 8) (d a b c : BitVec 4) (z : BitVec 8) :
    imm16Of (word6 op d a b c z) = b ++ c ++ z := by
  apply BitVec.eq_of_getLsbD_eq
  intro i hi
  rw [imm16Of, BitVec.getLsbD_extractLsb', decide_eq_true hi, Bool.true_and, getLsbD_word6]
  refine Eq.trans ?_ (BitVec.getLsbD_append (x := b ++ c) (y := z) (i := i)).symm
  simp only [BitVec.getLsbD_append, Nat.zero_add]
  split_ifs <;> first | rfl | omega

@[simp] theorem regOf_regBits (r : Reg) : regOf (regBits r) = r := rfl
@[simp] theorem regBits_regOf (v : BitVec 4) : regBits (regOf v) = v := rfl

/-- A mask acts on each field apart. -/
theorem word6_and (op mop : BitVec 8) (d a b c md ma mb mc : BitVec 4) (z mz : BitVec 8) :
    word6 op d a b c z &&& word6 mop md ma mb mc mz
      = word6 (op &&& mop) (d &&& md) (a &&& ma) (b &&& mb) (c &&& mc) (z &&& mz) := by
  apply BitVec.eq_of_getLsbD_eq
  intro i _
  rw [BitVec.getLsbD_and]
  simp only [getLsbD_word6, BitVec.getLsbD_and]
  split_ifs <;> rfl

/-- Words are equal exactly when their fields are. -/
theorem word6_inj {op op' : BitVec 8} {d a b c d' a' b' c' : BitVec 4} {z z' : BitVec 8} :
    word6 op d a b c z = word6 op' d' a' b' c' z' ↔
      op = op' ∧ d = d' ∧ a = a' ∧ b = b' ∧ c = c' ∧ z = z' := by
  constructor
  · intro h
    refine ⟨?_, ?_, ?_, ?_, ?_, ?_⟩
    · simpa using congrArg opcodeOf h
    · simpa using congrArg rdOf h
    · simpa using congrArg raOf h
    · simpa using congrArg rbOf h
    · simpa using congrArg rcOf h
    · simpa using congrArg zero8Of h
  · rintro ⟨rfl, rfl, rfl, rfl, rfl, rfl⟩; rfl

/-! ### What a form reads, both ways -/

section Forms
variable {w : CommandWord} {i : Instr}

/-- The low three fields are the immediate's own. -/
theorem wordI_fields (h : raOf w = 0) : wordI (opcodeOf w) (rdOf w) (imm16Of w) = w := by
  apply BitVec.eq_of_getLsbD_eq
  intro j hj
  have hz : ∀ k, k < 4 → w.getLsbD (16 + k) = false := by
    intro k hk
    have := congrArg (fun v : BitVec 4 => v.getLsbD k) h
    simpa [raOf, hk] using this
  refine (BitVec.getLsbD_append (x := opcodeOf w ++ rdOf w ++ 0#4) (y := imm16Of w) (i := j)).trans ?_
  simp only [BitVec.getLsbD_append, opcodeOf, rdOf, imm16Of, BitVec.getLsbD_extractLsb']
  split_ifs with h1 h2 h3
  · rw [decide_eq_true h1, Bool.true_and, Nat.zero_add]
  · have := hz (j - 16) h2
    rw [show 16 + (j - 16) = j by omega] at this
    rw [this]; exact BitVec.getLsbD_zero
  · rw [decide_eq_true h3, Bool.true_and]; congr 1; omega
  · rw [decide_eq_true (by omega), Bool.true_and]; congr 1; omega

theorem wordR_fields (h : zero8Of w = 0) : wordR (opcodeOf w) (rdOf w) (raOf w) (rbOf w) (rcOf w) = w := by
  rw [wordR_eq_word6, ← h, word6_fields]

theorem read_plain {j : Instr} (h : (Form.plain j).read w = .ok i) : w = wordR (opcodeOf w) 0 0 0 0 ∧ i = j := by
  simp only [Form.read] at h
  split_ifs at h with hz
  obtain ⟨h1, h2, h3, h4, h5⟩ := hz
  have hw := wordR_fields h5
  rw [h1, h2, h3, h4] at hw
  exact ⟨hw.symm, (Except.ok.inj h).symm⟩

theorem read_rd {mk : Reg → Instr} (h : (Form.rd mk).read w = .ok i) :
    ∃ d, w = wordR (opcodeOf w) (regBits d) 0 0 0 ∧ i = mk d := by
  simp only [Form.read] at h
  split_ifs at h with hz
  obtain ⟨h2, h3, h4, h5⟩ := hz
  have hw := wordR_fields h5
  rw [h2, h3, h4] at hw
  exact ⟨regOf (rdOf w), hw.symm, (Except.ok.inj h).symm⟩

theorem read_ra {mk : Reg → Instr} (h : (Form.ra mk).read w = .ok i) :
    ∃ a, w = wordR (opcodeOf w) 0 (regBits a) 0 0 ∧ i = mk a := by
  simp only [Form.read] at h
  split_ifs at h with hz
  obtain ⟨h1, h3, h4, h5⟩ := hz
  have hw := wordR_fields h5
  rw [h1, h3, h4] at hw
  exact ⟨regOf (raOf w), hw.symm, (Except.ok.inj h).symm⟩

theorem read_rdRa {mk : Reg → Reg → Instr} (h : (Form.rdRa mk).read w = .ok i) :
    ∃ d a, w = wordRdRa (opcodeOf w) d a ∧ i = mk d a := by
  simp only [Form.read] at h
  split_ifs at h with hz
  obtain ⟨h3, h4, h5⟩ := hz
  have hw := wordR_fields h5
  rw [h3, h4] at hw
  exact ⟨regOf (rdOf w), regOf (raOf w), hw.symm, (Except.ok.inj h).symm⟩

theorem read_rdRaRb {mk : Reg → Reg → Reg → Instr} (h : (Form.rdRaRb mk).read w = .ok i) :
    ∃ d a b, w = wordRdRaRb (opcodeOf w) d a b ∧ i = mk d a b := by
  simp only [Form.read] at h
  split_ifs at h with hz
  have hw := wordR_fields hz.2
  rw [hz.1] at hw
  exact ⟨regOf (rdOf w), regOf (raOf w), regOf (rbOf w), hw.symm, (Except.ok.inj h).symm⟩

theorem read_rdRaRbRc {mk : Reg → Reg → Reg → Reg → Instr} (h : (Form.rdRaRbRc mk).read w = .ok i) :
    ∃ d a b c, w = wordRdRaRbRc (opcodeOf w) d a b c ∧ i = mk d a b c := by
  simp only [Form.read] at h
  split_ifs at h with hz
  exact ⟨regOf (rdOf w), regOf (raOf w), regOf (rbOf w), regOf (rcOf w), (wordR_fields hz).symm, (Except.ok.inj h).symm⟩

theorem read_rdImm {mk : Reg → Imm16 → Instr} (h : (Form.rdImm mk).read w = .ok i) :
    ∃ d imm, w = wordI (opcodeOf w) (regBits d) imm ∧ i = mk d imm := by
  simp only [Form.read] at h
  split_ifs at h with hz
  exact ⟨regOf (rdOf w), imm16Of w, (wordI_fields hz).symm, (Except.ok.inj h).symm⟩

end Forms

/-! ### The encoder agrees with the opcode map, form by form -/

section EncodeForm
variable {op : BitVec 8}

theorem encode_plain {i : Instr} (h : formOf op = some (.plain i)) : encode i = wordR op 0 0 0 0 := by
  unfold formOf at h; split at h <;> cases h <;> rfl

theorem encode_rd {mk : Reg → Instr} (h : formOf op = some (.rd mk)) (d : Reg) :
    encode (mk d) = wordR op (regBits d) 0 0 0 := by
  unfold formOf at h; split at h <;> cases h <;> rfl

theorem encode_ra {mk : Reg → Instr} (h : formOf op = some (.ra mk)) (a : Reg) :
    encode (mk a) = wordR op 0 (regBits a) 0 0 := by
  unfold formOf at h; split at h <;> cases h <;> rfl

theorem encode_rdRa {mk : Reg → Reg → Instr} (h : formOf op = some (.rdRa mk)) (d a : Reg) :
    encode (mk d a) = wordRdRa op d a := by
  unfold formOf at h; split at h <;> cases h <;> rfl

theorem encode_rdRaRb {mk : Reg → Reg → Reg → Instr} (h : formOf op = some (.rdRaRb mk)) (d a b : Reg) :
    encode (mk d a b) = wordRdRaRb op d a b := by
  unfold formOf at h; split at h <;> cases h <;> rfl

theorem encode_rdRaRbRc {mk : Reg → Reg → Reg → Reg → Instr} (h : formOf op = some (.rdRaRbRc mk)) (d a b c : Reg) :
    encode (mk d a b c) = wordRdRaRbRc op d a b c := by
  unfold formOf at h; split at h <;> cases h <;> rfl

theorem encode_rdImm {mk : Reg → Imm16 → Instr} (h : formOf op = some (.rdImm mk)) (d : Reg) (imm : Imm16) :
    encode (mk d imm) = wordI op (regBits d) imm := by
  unfold formOf at h; split at h <;> cases h <;> rfl

end EncodeForm

end Sys2Proof
end

