-- ==== Sys2Proof/Laws/Functions.lean ====
section
/-! SUPPORT. One law per pure function of the unit, which says once what it computes: the bits of a shift or rotate
(spec/41_shift_rotate.md R101 to R105), the bit counts by their bits (spec/40_bit_primitives.md R80 to R82), the exactness of the carry
adder (spec/42_carry_adder.md R130, R131), and `BUILDC`'s three outcomes (spec/45_binary64_codec.md R229). -/

namespace Sys2Proof.Machine

/-! ### Shifts and rotates, bit by bit -/

section Bits
variable {w : Nat} (v : BitVec w) {n i : Nat}

theorem getLsbD_ofNat_mul (k : Nat) (hi : i < w) :
    (BitVec.ofNat w (v.toNat * 2 ^ k)).getLsbD i = (decide (k ≤ i) && v.getLsbD (i - k)) := by
  rw [BitVec.getLsbD_ofNat, decide_eq_true hi, Bool.true_and, Nat.testBit_mul_two_pow]
  rfl

theorem getLsbD_ofNat_div (k : Nat) (hi : i < w) :
    (BitVec.ofNat w (v.toNat / 2 ^ k)).getLsbD i = v.getLsbD (i + k) := by
  rw [BitVec.getLsbD_ofNat, decide_eq_true hi, Bool.true_and, Nat.testBit_div_two_pow]
  rfl

/-- `shl` bit by bit (R101). -/
theorem getLsbD_shl (hi : i < w) :
    (shl v n).getLsbD i = (decide (n % w ≤ i) && v.getLsbD (i - n % w)) := getLsbD_ofNat_mul v _ hi

/-- `shr` bit by bit (R102). -/
theorem getLsbD_shr (hi : i < w) : (shr v n).getLsbD i = v.getLsbD (i + n % w) := getLsbD_ofNat_div v _ hi

/-- `sar` is the arithmetic shift of the reduced amount (R103). -/
theorem sar_eq : sar v n = v.sshiftRight (n % w) := by
  apply BitVec.eq_of_toInt_eq
  have h : Int.fdiv v.toInt (2 ^ (n % w)) = (v.sshiftRight (n % w)).toInt := by
    rw [BitVec.toInt_sshiftRight, Int.shiftRight_eq_div_pow, Int.fdiv_eq_ediv_of_nonneg _ (by positivity)]
    push_cast
    rfl
  rw [sar, h, BitVec.ofInt_toInt]

/-- `sar` bit by bit (R103): the sign bit fills. -/
theorem getLsbD_sar (hi : i < w) :
    (sar v n).getLsbD i = if i + n % w < w then v.getLsbD (i + n % w) else v.getLsbD (w - 1) := by
  rw [sar_eq, BitVec.getLsbD_sshiftRight, Nat.add_comm (n % w) i]
  have : ¬ w ≤ i := by omega
  simp [this, BitVec.msb_eq_getLsbD_last]

/-- `rol` bit by bit (R104): bit i comes from bit `(i - k) mod w`. -/
theorem getLsbD_rol (hi : i < w) : (rol v n).getLsbD i = v.getLsbD ((i + (w - n % w)) % w) := by
  have hk : n % w < w := Nat.mod_lt _ (by omega)
  simp only [rol]
  generalize n % w = k at hk ⊢
  split
  · next h => rw [h, Nat.sub_zero, Nat.add_mod_right, Nat.mod_eq_of_lt hi]
  · next h =>
    rw [BitVec.getLsbD_or, getLsbD_ofNat_mul _ _ hi, getLsbD_ofNat_div _ _ hi]
    by_cases hki : k ≤ i
    · rw [decide_eq_true hki, BitVec.getLsbD_of_ge v (i + (w - k)) (by omega), Bool.true_and, Bool.or_false,
        show i + (w - k) = (i - k) + w by omega, Nat.add_mod_right, Nat.mod_eq_of_lt (by omega)]
    · rw [decide_eq_false hki, Bool.false_and, Bool.false_or, Nat.mod_eq_of_lt (by omega)]

/-- `ror` bit by bit (R105): bit i comes from bit `(i + k) mod w`. -/
theorem getLsbD_ror (hi : i < w) : (ror v n).getLsbD i = v.getLsbD ((i + n % w) % w) := by
  have hk : n % w < w := Nat.mod_lt _ (by omega)
  simp only [ror]
  generalize n % w = k at hk ⊢
  split
  · next h => rw [h, Nat.add_zero, Nat.mod_eq_of_lt hi]
  · next h =>
    rw [BitVec.getLsbD_or, getLsbD_ofNat_mul _ _ hi, getLsbD_ofNat_div _ _ hi]
    by_cases hki : w - k ≤ i
    · rw [decide_eq_true hki, BitVec.getLsbD_of_ge v (i + k) (by omega), Bool.true_and, Bool.false_or,
        show i + k = (i - (w - k)) + w by omega, Nat.add_mod_right, Nat.mod_eq_of_lt (by omega)]
    · rw [decide_eq_false hki, Bool.false_and, Bool.or_false, Nat.mod_eq_of_lt (by omega)]

end Bits

/-! ### Bit counts -/

section Counts
variable {w : Nat} (v : BitVec w)

theorem zerosBelow_cases (n : Nat) :
    (zerosBelow v n = n ∧ ∀ j, j < n → v.getLsbD j = false) ∨
    (zerosBelow v n < n ∧ v.getLsbD (n - 1 - zerosBelow v n) = true ∧
      ∀ j, n - 1 - zerosBelow v n < j → j < n → v.getLsbD j = false) := by
  induction n with
  | zero => exact .inl ⟨rfl, fun j hj => absurd hj (by omega)⟩
  | succ n ih =>
    rw [zerosBelow]
    by_cases hb : v.getLsbD n = true
    · rw [if_pos hb]
      exact .inr ⟨by omega, by simpa using hb, fun j h1 h2 => absurd h1 (by omega)⟩
    · rw [if_neg hb]
      obtain ⟨h1, h2⟩ | ⟨h1, h2, h3⟩ := ih
      · refine .inl ⟨by omega, fun j hj => ?_⟩
        by_cases hjn : j = n
        · subst hjn; simpa using hb
        · exact h2 j (by omega)
      · refine .inr ⟨by omega, by rwa [show n + 1 - 1 - (zerosBelow v n + 1) = n - 1 - zerosBelow v n by omega],
          fun j h4 h5 => ?_⟩
        by_cases hjn : j = n
        · subst hjn; simpa using hb
        · exact h3 j (by omega) (by omega)

theorem zerosAbove_cases (n : Nat) (hn : n ≤ w) :
    (zerosAbove v n = n ∧ ∀ j, w - n ≤ j → j < w → v.getLsbD j = false) ∨
    (zerosAbove v n < n ∧ v.getLsbD (w - n + zerosAbove v n) = true ∧
      ∀ j, w - n ≤ j → j < w - n + zerosAbove v n → v.getLsbD j = false) := by
  induction n with
  | zero => exact .inl ⟨rfl, fun j hj => by omega⟩
  | succ n ih =>
    rw [zerosAbove]
    by_cases hb : v.getLsbD (w - (n + 1)) = true
    · rw [if_pos hb]
      exact .inr ⟨by omega, hb, fun j h1 h2 => absurd h1 (by omega)⟩
    · rw [if_neg hb]
      obtain ⟨h1, h2⟩ | ⟨h1, h2, h3⟩ := ih (by omega)
      · refine .inl ⟨by omega, fun j hj hw => ?_⟩
        by_cases hjn : j = w - (n + 1)
        · subst hjn; simpa using hb
        · exact h2 j (by omega) hw
      · refine .inr ⟨by omega, by rwa [show w - (n + 1) + (zerosAbove v n + 1) = w - n + zerosAbove v n by omega],
          fun j h4 h5 => ?_⟩
        by_cases hjn : j = w - (n + 1)
        · subst hjn; simpa using hb
        · exact h3 j (by omega) (by omega)

/-- `clz`: all bits are 0 and it is w, or it leads to the highest bit that is 1 (R80). -/
theorem clz_cases : (clz v = w ∧ v = 0) ∨
    (clz v < w ∧ v.getLsbD (w - 1 - clz v) = true ∧ ∀ j, w - 1 - clz v < j → j < w → v.getLsbD j = false) := by
  obtain ⟨h1, h2⟩ | h := zerosBelow_cases v w
  · exact .inl ⟨h1, BitVec.eq_of_getLsbD_eq fun i hi => by simpa using h2 i hi⟩
  · exact .inr h

/-- `ctz`: all bits are 0 and it is w, or it is the place of the lowest bit that is 1 (R81). -/
theorem ctz_cases : (ctz v = w ∧ v = 0) ∨
    (ctz v < w ∧ v.getLsbD (ctz v) = true ∧ ∀ j, j < ctz v → v.getLsbD j = false) := by
  obtain ⟨h1, h2⟩ | ⟨h1, h2, h3⟩ := zerosAbove_cases v w le_rfl
  · exact .inl ⟨h1, BitVec.eq_of_getLsbD_eq fun i hi => by simpa using h2 i (by omega) hi⟩
  · refine .inr ⟨h1, ?_, fun j hj => h3 j (by omega) (by rw [Nat.sub_self, Nat.zero_add]; exact hj)⟩
    rwa [Nat.sub_self, Nat.zero_add] at h2

theorem onesBelow_eq_sum (n : Nat) : onesBelow v n = ∑ i ∈ Finset.range n, (v.getLsbD i).toNat := by
  induction n with
  | zero => rfl
  | succ n ih => rw [onesBelow, ih, Finset.sum_range_succ]

/-- `popcnt` is the sum of the bits (R82). -/
theorem popcnt_eq_sum : popcnt v = ∑ i ∈ Finset.range w, (v.getLsbD i).toNat := onesBelow_eq_sum v w

theorem clz_le : clz v ≤ w := by
  obtain ⟨h, _⟩ | ⟨h, _⟩ := clz_cases v <;> omega

theorem ctz_le : ctz v ≤ w := by
  obtain ⟨h, _⟩ | ⟨h, _⟩ := ctz_cases v <;> omega

theorem popcnt_le : popcnt v ≤ w := by
  rw [popcnt_eq_sum]
  calc _ ≤ ∑ _i ∈ Finset.range w, 1 := Finset.sum_le_sum fun i _ => Bool.toNat_le _
    _ = w := by simp

end Counts

/-- A bit count fits in the 7 bits of its result (R84). -/
theorem countWord_eq {n : Nat} (h : n ≤ 64) : countWord n = BitVec.ofNat 64 n := by
  apply BitVec.eq_of_toNat_eq
  simp only [countWord, zext64, BitVec.toNat_setWidth, BitVec.toNat_ofNat]
  omega

/-! ### The carry adder -/

/-- The pair of `adc` is the exact sum (R130). -/
theorem adc_exact (a b : Word) (c : Bool) :
    (adc a b c).2.toNat * 2 ^ 64 + (adc a b c).1.toNat = a.toNat + b.toNat + c.toNat := by
  have ha := a.isLt
  have hb := b.isLt
  have hc := Bool.toNat_le c
  simp only [adc, BitVec.toNat_ofNat]
  by_cases h : 2 ^ 64 ≤ a.toNat + b.toNat + c.toNat
  · rw [decide_eq_true h, Bool.toNat_true]; omega
  · rw [decide_eq_false h, Bool.toNat_false]; omega

theorem bits64_toNat (k : Int) : ((bits64 k).toNat : Int) = k % 2 ^ 64 := by
  rw [bits64, BitVec.toNat_ofInt, Int.toNat_of_nonneg (Int.emod_nonneg _ (by decide))]
  rfl

/-- The pair of `sbb` is the exact difference (R131). -/
theorem sbb_exact (a b : Word) (c : Bool) :
    ((sbb a b c).1.toNat : Int) - (sbb a b c).2.toNat * 2 ^ 64 = a.toNat - b.toNat - c.toNat := by
  have ha := a.isLt
  have hb := b.isLt
  have hc := Bool.toNat_le c
  simp only [sbb, bits64_toNat]
  by_cases h : a.toNat < b.toNat + c.toNat
  · rw [decide_eq_true h, Bool.toNat_true]; omega
  · rw [decide_eq_false h, Bool.toNat_false]; omega

/-! ### The three outcomes of BUILDC (R229, R258) -/

section Buildc
variable {rd ra rb rc : Reg} {s : State}

theorem execBuildc_range (h : rangeOk (s.readExponent rc) = false) : execBuildc rd ra rb rc s = raise .rangeError s :=
  if_pos h

theorem execBuildc_invariant (h : rangeOk (s.readExponent rc) = true)
    (hi : invariantOk (s.readX rb) (s.readExponent rc) = false) :
    execBuildc rd ra rb rc s = raise .invariantViolation s := by
  rw [execBuildc, h, if_neg (by decide), if_pos hi]

theorem execBuildc_valid (h : valid (s.readX rb) (s.readExponent rc) = true) :
    execBuildc rd ra rb rc s = execBuild rd ra rb rc s := by
  rw [valid, Bool.and_eq_true] at h
  rw [execBuildc, h.1, h.2, if_neg (by decide), if_neg (by decide), execBuild]

end Buildc

/-! ### The fields of a pattern -/

/-- The pattern of `build_binary64` as a number (R222). -/
theorem buildBinary64_toNat (s : Bool) (m : Word) (e : Int) :
    ((buildBinary64 s m e).toNat : Int) = s.toNat * 2 ^ 63 + (e + 1023) % 2048 * 2 ^ 52 + (m.toNat % 2 ^ 52 : Nat) := by
  have hE : ((BitVec.ofInt 11 (e + 1023)).toNat : Int) = (e + 1023) % 2048 := by
    rw [BitVec.toNat_ofInt, Int.toNat_of_nonneg (Int.emod_nonneg _ (by decide))]; rfl
  have hm : (m.extractLsb' 0 52).toNat = m.toNat % 2 ^ 52 := by
    rw [BitVec.extractLsb'_toNat, Nat.shiftRight_zero]
  have hs : (BitVec.ofBool s).toNat = s.toNat := by cases s <;> rfl
  unfold buildBinary64
  rw [BitVec.toNat_append, ← Nat.shiftLeft_add_eq_or_of_lt (BitVec.isLt _), Nat.shiftLeft_eq, BitVec.toNat_append,
    ← Nat.shiftLeft_add_eq_or_of_lt (BitVec.isLt _), Nat.shiftLeft_eq, hm, hs]
  push_cast
  rw [hE]
  ring

/-- The biased exponent field as a number (R221). -/
theorem biasedExponent_eq (p : Word) : biasedExponent p = p.toNat / 2 ^ 52 % 2048 := by
  rw [biasedExponent, BitVec.extractLsb'_toNat, Nat.shiftRight_eq_div_pow]

theorem fraction_toNat (p : Word) : (fraction p).toNat = p.toNat % 2 ^ 52 := by
  rw [fraction, BitVec.extractLsb'_toNat, Nat.shiftRight_zero]

/-- The mantissa of `split_binary64` as a number (R224). -/
theorem splitMantissa_toNat (p : Word) :
    (splitBinary64 p).mantissa.toNat = p.toNat % 2 ^ 52 + if isExceptional p then 0 else 2 ^ 52 := by
  have hf : p.toNat % 2 ^ 52 < 2 ^ 52 := Nat.mod_lt _ (by decide)
  simp only [splitBinary64]
  split
  · rw [BitVec.toNat_append, ← Nat.shiftLeft_add_eq_or_of_lt (BitVec.isLt _), fraction_toNat]
    simp
  · rw [BitVec.toNat_append, ← Nat.shiftLeft_add_eq_or_of_lt (BitVec.isLt _), fraction_toNat,
      show (0#11 ++ 1#1 : BitVec 12) = 1#12 from rfl]
    simp; omega

end Sys2Proof.Machine
end

