-- ==== Sys2Proof/Laws/State.lean ====
section
/-! SUPPORT. One lemma per field per update of the state, and read after write, so that no later proof unfolds a record update. -/

namespace Sys2Proof.Machine

variable (s : State)

/-! ### Fields of `writeX` -/
@[simp] theorem writeX_cf (r : Reg) (v : Word) : (s.writeX r v).cf = s.cf := rfl
@[simp] theorem writeX_pending (r : Reg) (v : Word) : (s.writeX r v).pending = s.pending := rfl
@[simp] theorem writeX_din (r : Reg) (v : Word) : (s.writeX r v).din = s.din := rfl
@[simp] theorem writeX_responses (r : Reg) (v : Word) : (s.writeX r v).responses = s.responses := rfl

/-! ### Fields of `writeCF` -/
@[simp] theorem writeCF_x (b : Bool) : (s.writeCF b).x = s.x := rfl
@[simp] theorem writeCF_cf (b : Bool) : (s.writeCF b).cf = b := rfl
@[simp] theorem writeCF_pending (b : Bool) : (s.writeCF b).pending = s.pending := rfl
@[simp] theorem writeCF_din (b : Bool) : (s.writeCF b).din = s.din := rfl
@[simp] theorem writeCF_responses (b : Bool) : (s.writeCF b).responses = s.responses := rfl

/-! ### Fields of `respond` -/
@[simp] theorem respond_x (c : BitVec 2) (v : Word) : (s.respond c v).x = s.x := rfl
@[simp] theorem respond_cf (c : BitVec 2) (v : Word) : (s.respond c v).cf = s.cf := rfl
@[simp] theorem respond_pending (c : BitVec 2) (v : Word) : (s.respond c v).pending = s.pending := rfl
@[simp] theorem respond_din (c : BitVec 2) (v : Word) : (s.respond c v).din = s.din := rfl
@[simp] theorem respond_responses (c : BitVec 2) (v : Word) :
    (s.respond c v).responses = s.responses ++ [⟨c, v⟩] := rfl

/-! ### Fields of `resetUnit` -/
@[simp] theorem resetUnit_cf : s.resetUnit.cf = false := rfl
@[simp] theorem resetUnit_pending : s.resetUnit.pending = s.pending := rfl
@[simp] theorem resetUnit_din : s.resetUnit.din = s.din := rfl
@[simp] theorem resetUnit_responses : s.resetUnit.responses = s.responses := rfl

/-! ### Fields of `accept` and `present` -/
@[simp] theorem accept_x (c : Command) (rest : List HostEvent) : (s.accept c rest).x = s.x := rfl
@[simp] theorem accept_cf (c : Command) (rest : List HostEvent) : (s.accept c rest).cf = s.cf := rfl
@[simp] theorem accept_pending (c : Command) (rest : List HostEvent) : (s.accept c rest).pending = rest := rfl
@[simp] theorem accept_din (c : Command) (rest : List HostEvent) : (s.accept c rest).din = c.din := rfl
@[simp] theorem accept_responses (c : Command) (rest : List HostEvent) :
    (s.accept c rest).responses = s.responses := rfl
@[simp] theorem present_x (c : Command) : (s.present c).x = s.x := rfl
@[simp] theorem present_cf (c : Command) : (s.present c).cf = s.cf := rfl
@[simp] theorem present_pending (c : Command) : (s.present c).pending = .command c :: s.pending := rfl
@[simp] theorem present_din (c : Command) : (s.present c).din = s.din := rfl
@[simp] theorem present_responses (c : Command) : (s.present c).responses = s.responses := rfl

/-! ### Reading registers -/
@[simp] theorem readX_writeX_same (r : Reg) (v : Word) : (s.writeX r v).readX r = v := by
  simp [State.readX, State.writeX]

@[simp] theorem readX_writeX_other {r q : Reg} (h : q ≠ r) (v : Word) : (s.writeX r v).readX q = s.readX q := by
  have : (r : Nat) ≠ q := fun e => h (Fin.ext e.symm)
  simp [State.readX, State.writeX, this]

/-- Read after write, both cases. -/
theorem readX_writeX (r q : Reg) (v : Word) : (s.writeX r v).readX q = if q = r then v else s.readX q := by
  split
  · next h => subst h; simp
  · next h => simp [h]

@[simp] theorem readX_writeCF (b : Bool) (r : Reg) : (s.writeCF b).readX r = s.readX r := rfl
@[simp] theorem readX_respond (c : BitVec 2) (v : Word) (r : Reg) : (s.respond c v).readX r = s.readX r := rfl
@[simp] theorem readX_accept (c : Command) (rest : List HostEvent) (r : Reg) :
    (s.accept c rest).readX r = s.readX r := rfl
@[simp] theorem readX_resetUnit (r : Reg) : s.resetUnit.readX r = 0#64 := by
  simp [State.readX, State.resetUnit, State.reset]

/-- Two register files that read alike are equal. -/
theorem x_ext {s t : State} (h : ∀ r, s.readX r = t.readX r) : s.x = t.x := by
  apply Vector.ext
  intro i hi
  exact h ⟨i, hi⟩

end Sys2Proof.Machine
end

