-- ==== Sys2Proof/Laws/Ops.lean ====
section
/-! SUPPORT. What each shared operation answers, said once; what `exec` can do, said once (`exec_shape`); what a step can do, said once
(`step_idle`, `step_reset`, `step_command`, `step_illegal`). -/

namespace Sys2Proof.Machine

/-! ### How a command ends -/

theorem finish_next {s t : State} : finish s = .next t ↔ t = s.respond 0 0 := by
  simp [finish, eq_comm]

theorem writeResult_next {rd : Reg} {v : Word} {s t : State} :
    writeResult rd v s = .next t ↔ t = (s.writeX rd v).respond 0 0 := finish_next

theorem writeResultCF_next {rd : Reg} {v : Word} {c : Bool} {s t : State} :
    writeResultCF rd v c s = .next t ↔ t = ((s.writeX rd v).writeCF c).respond 0 0 := finish_next

theorem writeFlag_next {c : Bool} {s t : State} : writeFlag c s = .next t ↔ t = (s.writeCF c).respond 0 0 :=
  finish_next

theorem sendData_next {v : Word} {s t : State} : sendData v s = .next t ↔ t = s.respond 0 v := by
  simp [sendData, eq_comm]

theorem raise_next {f : FaultKind} {s t : State} : raise f s = .next t ↔ t = s.respond f.code 0 := by
  simp [raise, eq_comm]

/-! ### What a command can do -/

/-- Every command ends by one of the five operations, as the table of R32 says of it. -/
theorem exec_shape (i : Instr) (s : State) :
    (∃ rd v, i.destination = some rd ∧ i.writesCF = false ∧ i.setsDout = false ∧ exec i s = writeResult rd v s) ∨
    (∃ rd v c, i.destination = some rd ∧ i.writesCF = true ∧ i.setsDout = false ∧ exec i s = writeResultCF rd v c s) ∨
    (∃ c, i.destination = none ∧ i.writesCF = true ∧ i.setsDout = false ∧ exec i s = writeFlag c s) ∨
    (∃ v, i.destination = none ∧ i.writesCF = false ∧ i.setsDout = true ∧ exec i s = sendData v s) ∨
    (∃ f, i.canFault = true ∧ i.setsDout = false ∧ i.writesCF = false ∧ exec i s = raise f s) := by
  cases i
  case buildc rd ra rb rc =>
    by_cases hr : rangeOk (s.readExponent rc) = false
    · exact .inr <| .inr <| .inr <| .inr ⟨.rangeError, rfl, rfl, rfl, if_pos hr⟩
    · by_cases hi : invariantOk (s.readX rb) (s.readExponent rc) = false
      · exact .inr <| .inr <| .inr <| .inr
          ⟨.invariantViolation, rfl, rfl, rfl, (if_neg hr).trans (if_pos hi)⟩
      · exact .inl ⟨rd, _, rfl, rfl, rfl, (if_neg hr).trans (if_neg hi)⟩
  case adc => exact .inr <| .inl ⟨_, _, _, rfl, rfl, rfl, rfl⟩
  case sbb => exact .inr <| .inl ⟨_, _, _, rfl, rfl, rfl, rfl⟩
  case clc => exact .inr <| .inr <| .inl ⟨_, rfl, rfl, rfl, rfl⟩
  case stc => exact .inr <| .inr <| .inl ⟨_, rfl, rfl, rfl, rfl⟩
  case putc => exact .inr <| .inr <| .inl ⟨_, rfl, rfl, rfl, rfl⟩
  case rdv => exact .inr <| .inr <| .inr <| .inl ⟨_, rfl, rfl, rfl, rfl⟩
  all_goals exact .inl ⟨_, _, rfl, rfl, rfl, rfl⟩

/-! ### What a step can do -/

theorem step_idle {s : State} (h : s.pending = []) : step s = .next s := by
  simp [step, handleNext, h]

theorem step_reset {s : State} {lost : Option Command} {rest : List HostEvent} (h : s.pending = .reset lost :: rest) :
    step s = .next { s.resetUnit with pending := rest } := by
  simp [step, handleNext, h]

theorem step_command {s : State} {c : Command} {rest : List HostEvent} {i : Instr}
    (h : s.pending = .command c :: rest) (hd : decode c.cw = .ok i) : step s = exec i (s.accept c rest) := by
  simp [step, handleNext, h, runWord, hd]

theorem step_illegal {s : State} {c : Command} {rest : List HostEvent} {e : Illegal}
    (h : s.pending = .command c :: rest) (hd : decode c.cw = .error e) :
    step s = raise .illegalCommand (s.accept c rest) := by
  simp [step, handleNext, h, runWord, hd]

end Sys2Proof.Machine
end

