-- ==== Sys2Proof/Laws/PerInstr.lean ====
section
/-! SUPPORT. The families of statements made per instruction (LAWS.json). EncodesLegal: the encoder gives every command a word that
the mask and match columns of spec/30_encoding.md R55 allow, in the row with the command's mnemonic. -/

namespace Sys2Proof.Laws

/-- A word fits a row when its opcode does and each masked bit of its fields is zero. -/
theorem fits_word6 (name : String) (op mop : BitVec 8) (d a b c md ma mb mc : BitVec 4) (z mz : BitVec 8)
    {matchWord mask : CommandWord} (hmask : mask = word6 mop md ma mb mc mz)
    (hmatch : matchWord = word6 (op &&& mop) 0 0 0 0 0) (hd : d &&& md = 0 := by simp) (ha : a &&& ma = 0 := by simp)
    (hb : b &&& mb = 0 := by simp) (hc : c &&& mc = 0 := by simp) (hz : z &&& mz = 0 := by simp) :
    (⟨name, matchWord, mask⟩ : OpcodeRow).fits (word6 op d a b c z) = true := by
  rw [OpcodeRow.fits, hmask, word6_and, hd, ha, hb, hc, hz, ← hmatch, beq_self_eq_true]

/-- The command's word fits the row of R55 with its mnemonic. -/
def EncodesLegal.Statement (i : Instr) : Prop :=
  ∃ r ∈ opcodeMap, r.mnemonic = i.mnemonic ∧ r.fits (encode i) = true

/-- Every command's word fits its row: one case per command, each with its row of R55. -/
theorem encodesLegal (i : Instr) : EncodesLegal.Statement i := by
  cases i with
  | clz32 d a =>
    exact ⟨⟨"CLZ32", 0x10000000#32, 0xFF00FFFF#32⟩, by decide, rfl,
      fits_word6 _ 0x10 0xFF _ _ _ _ 0 0 0xF 0xF 0 0xFF (by decide) (by decide)⟩
  | clz64 d a =>
    exact ⟨⟨"CLZ64", 0x11000000#32, 0xFF00FFFF#32⟩, by decide, rfl,
      fits_word6 _ 0x11 0xFF _ _ _ _ 0 0 0xF 0xF 0 0xFF (by decide) (by decide)⟩
  | ctz32 d a =>
    exact ⟨⟨"CTZ32", 0x12000000#32, 0xFF00FFFF#32⟩, by decide, rfl,
      fits_word6 _ 0x12 0xFF _ _ _ _ 0 0 0xF 0xF 0 0xFF (by decide) (by decide)⟩
  | ctz64 d a =>
    exact ⟨⟨"CTZ64", 0x13000000#32, 0xFF00FFFF#32⟩, by decide, rfl,
      fits_word6 _ 0x13 0xFF _ _ _ _ 0 0 0xF 0xF 0 0xFF (by decide) (by decide)⟩
  | popcnt32 d a =>
    exact ⟨⟨"POPCNT32", 0x14000000#32, 0xFF00FFFF#32⟩, by decide, rfl,
      fits_word6 _ 0x14 0xFF _ _ _ _ 0 0 0xF 0xF 0 0xFF (by decide) (by decide)⟩
  | popcnt64 d a =>
    exact ⟨⟨"POPCNT64", 0x15000000#32, 0xFF00FFFF#32⟩, by decide, rfl,
      fits_word6 _ 0x15 0xFF _ _ _ _ 0 0 0xF 0xF 0 0xFF (by decide) (by decide)⟩
  | shl32 d a b =>
    exact ⟨⟨"SHL32", 0x20000000#32, 0xFF000FFF#32⟩, by decide, rfl,
      fits_word6 _ 0x20 0xFF _ _ _ _ 0 0 0 0xF 0 0xFF (by decide) (by decide)⟩
  | shr32 d a b =>
    exact ⟨⟨"SHR32", 0x21000000#32, 0xFF000FFF#32⟩, by decide, rfl,
      fits_word6 _ 0x21 0xFF _ _ _ _ 0 0 0 0xF 0 0xFF (by decide) (by decide)⟩
  | sar32 d a b =>
    exact ⟨⟨"SAR32", 0x22000000#32, 0xFF000FFF#32⟩, by decide, rfl,
      fits_word6 _ 0x22 0xFF _ _ _ _ 0 0 0 0xF 0 0xFF (by decide) (by decide)⟩
  | rol32 d a b =>
    exact ⟨⟨"ROL32", 0x23000000#32, 0xFF000FFF#32⟩, by decide, rfl,
      fits_word6 _ 0x23 0xFF _ _ _ _ 0 0 0 0xF 0 0xFF (by decide) (by decide)⟩
  | ror32 d a b =>
    exact ⟨⟨"ROR32", 0x24000000#32, 0xFF000FFF#32⟩, by decide, rfl,
      fits_word6 _ 0x24 0xFF _ _ _ _ 0 0 0 0xF 0 0xFF (by decide) (by decide)⟩
  | shl64 d a b =>
    exact ⟨⟨"SHL64", 0x28000000#32, 0xFF000FFF#32⟩, by decide, rfl,
      fits_word6 _ 0x28 0xFF _ _ _ _ 0 0 0 0xF 0 0xFF (by decide) (by decide)⟩
  | shr64 d a b =>
    exact ⟨⟨"SHR64", 0x29000000#32, 0xFF000FFF#32⟩, by decide, rfl,
      fits_word6 _ 0x29 0xFF _ _ _ _ 0 0 0 0xF 0 0xFF (by decide) (by decide)⟩
  | sar64 d a b =>
    exact ⟨⟨"SAR64", 0x2A000000#32, 0xFF000FFF#32⟩, by decide, rfl,
      fits_word6 _ 0x2A 0xFF _ _ _ _ 0 0 0 0xF 0 0xFF (by decide) (by decide)⟩
  | rol64 d a b =>
    exact ⟨⟨"ROL64", 0x2B000000#32, 0xFF000FFF#32⟩, by decide, rfl,
      fits_word6 _ 0x2B 0xFF _ _ _ _ 0 0 0 0xF 0 0xFF (by decide) (by decide)⟩
  | ror64 d a b =>
    exact ⟨⟨"ROR64", 0x2C000000#32, 0xFF000FFF#32⟩, by decide, rfl,
      fits_word6 _ 0x2C 0xFF _ _ _ _ 0 0 0 0xF 0 0xFF (by decide) (by decide)⟩
  | adc d a b =>
    exact ⟨⟨"ADC", 0x30000000#32, 0xFF000FFF#32⟩, by decide, rfl,
      fits_word6 _ 0x30 0xFF _ _ _ _ 0 0 0 0xF 0 0xFF (by decide) (by decide)⟩
  | sbb d a b =>
    exact ⟨⟨"SBB", 0x31000000#32, 0xFF000FFF#32⟩, by decide, rfl,
      fits_word6 _ 0x31 0xFF _ _ _ _ 0 0 0 0xF 0 0xFF (by decide) (by decide)⟩
  | clc =>
    exact ⟨⟨"CLC", 0x38000000#32, 0xFFFFFFFF#32⟩, by decide, rfl,
      fits_word6 _ 0x38 0xFF _ _ _ _ 0xF 0xF 0xF 0xF 0 0xFF (by decide) (by decide)⟩
  | stc =>
    exact ⟨⟨"STC", 0x39000000#32, 0xFFFFFFFF#32⟩, by decide, rfl,
      fits_word6 _ 0x39 0xFF _ _ _ _ 0xF 0xF 0xF 0xF 0 0xFF (by decide) (by decide)⟩
  | getc d =>
    exact ⟨⟨"GETC", 0x3A000000#32, 0xFF0FFFFF#32⟩, by decide, rfl,
      fits_word6 _ 0x3A 0xFF _ _ _ _ 0 0xF 0xF 0xF 0 0xFF (by decide) (by decide)⟩
  | putc a =>
    exact ⟨⟨"PUTC", 0x3B000000#32, 0xFFF0FFFF#32⟩, by decide, rfl,
      fits_word6 _ 0x3B 0xFF _ _ _ _ 0xF 0 0xF 0xF 0 0xFF (by decide) (by decide)⟩
  | neg d a =>
    exact ⟨⟨"NEG", 0x40000000#32, 0xFF00FFFF#32⟩, by decide, rfl,
      fits_word6 _ 0x40 0xFF _ _ _ _ 0 0 0xF 0xF 0 0xFF (by decide) (by decide)⟩
  | not d a =>
    exact ⟨⟨"NOT", 0x41000000#32, 0xFF00FFFF#32⟩, by decide, rfl,
      fits_word6 _ 0x41 0xFF _ _ _ _ 0 0 0xF 0xF 0 0xFF (by decide) (by decide)⟩
  | abs d a =>
    exact ⟨⟨"ABS", 0x42000000#32, 0xFF00FFFF#32⟩, by decide, rfl,
      fits_word6 _ 0x42 0xFF _ _ _ _ 0 0 0xF 0xF 0 0xFF (by decide) (by decide)⟩
  | add d a b =>
    exact ⟨⟨"ADD", 0x44000000#32, 0xFF000FFF#32⟩, by decide, rfl,
      fits_word6 _ 0x44 0xFF _ _ _ _ 0 0 0 0xF 0 0xFF (by decide) (by decide)⟩
  | sub d a b =>
    exact ⟨⟨"SUB", 0x45000000#32, 0xFF000FFF#32⟩, by decide, rfl,
      fits_word6 _ 0x45 0xFF _ _ _ _ 0 0 0 0xF 0 0xFF (by decide) (by decide)⟩
  | rsub d a b =>
    exact ⟨⟨"RSUB", 0x46000000#32, 0xFF000FFF#32⟩, by decide, rfl,
      fits_word6 _ 0x46 0xFF _ _ _ _ 0 0 0 0xF 0 0xFF (by decide) (by decide)⟩
  | and d a b =>
    exact ⟨⟨"AND", 0x47000000#32, 0xFF000FFF#32⟩, by decide, rfl,
      fits_word6 _ 0x47 0xFF _ _ _ _ 0 0 0 0xF 0 0xFF (by decide) (by decide)⟩
  | or d a b =>
    exact ⟨⟨"OR", 0x48000000#32, 0xFF000FFF#32⟩, by decide, rfl,
      fits_word6 _ 0x48 0xFF _ _ _ _ 0 0 0 0xF 0 0xFF (by decide) (by decide)⟩
  | xor d a b =>
    exact ⟨⟨"XOR", 0x49000000#32, 0xFF000FFF#32⟩, by decide, rfl,
      fits_word6 _ 0x49 0xFF _ _ _ _ 0 0 0 0xF 0 0xFF (by decide) (by decide)⟩
  | iszero d a =>
    exact ⟨⟨"ISZERO", 0x50000000#32, 0xFF00FFFF#32⟩, by decide, rfl,
      fits_word6 _ 0x50 0xFF _ _ _ _ 0 0 0xF 0xF 0 0xFF (by decide) (by decide)⟩
  | eq d a b =>
    exact ⟨⟨"EQ", 0x51000000#32, 0xFF000FFF#32⟩, by decide, rfl,
      fits_word6 _ 0x51 0xFF _ _ _ _ 0 0 0 0xF 0 0xFF (by decide) (by decide)⟩
  | lt d a b =>
    exact ⟨⟨"LT", 0x52000000#32, 0xFF000FFF#32⟩, by decide, rfl,
      fits_word6 _ 0x52 0xFF _ _ _ _ 0 0 0 0xF 0 0xFF (by decide) (by decide)⟩
  | gt d a b =>
    exact ⟨⟨"GT", 0x53000000#32, 0xFF000FFF#32⟩, by decide, rfl,
      fits_word6 _ 0x53 0xFF _ _ _ _ 0 0 0 0xF 0 0xFF (by decide) (by decide)⟩
  | ilt d a b =>
    exact ⟨⟨"ILT", 0x54000000#32, 0xFF000FFF#32⟩, by decide, rfl,
      fits_word6 _ 0x54 0xFF _ _ _ _ 0 0 0 0xF 0 0xFF (by decide) (by decide)⟩
  | igt d a b =>
    exact ⟨⟨"IGT", 0x55000000#32, 0xFF000FFF#32⟩, by decide, rfl,
      fits_word6 _ 0x55 0xFF _ _ _ _ 0 0 0 0xF 0 0xFF (by decide) (by decide)⟩
  | cmp d a b =>
    exact ⟨⟨"CMP", 0x56000000#32, 0xFF000FFF#32⟩, by decide, rfl,
      fits_word6 _ 0x56 0xFF _ _ _ _ 0 0 0 0xF 0 0xFF (by decide) (by decide)⟩
  | scmp d a b =>
    exact ⟨⟨"SCMP", 0x57000000#32, 0xFF000FFF#32⟩, by decide, rfl,
      fits_word6 _ 0x57 0xFF _ _ _ _ 0 0 0 0xF 0 0xFF (by decide) (by decide)⟩
  | clr d =>
    exact ⟨⟨"CLR", 0x60000000#32, 0xFF0FFFFF#32⟩, by decide, rfl,
      fits_word6 _ 0x60 0xFF _ _ _ _ 0 0xF 0xF 0xF 0 0xFF (by decide) (by decide)⟩
  | mov d a =>
    exact ⟨⟨"MOV", 0x61000000#32, 0xFF00FFFF#32⟩, by decide, rfl,
      fits_word6 _ 0x61 0xFF _ _ _ _ 0 0 0xF 0xF 0 0xFF (by decide) (by decide)⟩
  | li d imm =>
    refine ⟨⟨"LI", 0x62000000#32, 0xFF0F0000#32⟩, by decide, rfl, ?_⟩
    rw [encode, wordI_eq_word6]
    exact fits_word6 _ 0x62 0xFF _ _ _ _ 0 0xF 0 0 _ 0 (by decide) (by decide)
  | lis d imm =>
    refine ⟨⟨"LIS", 0x63000000#32, 0xFF0F0000#32⟩, by decide, rfl, ?_⟩
    rw [encode, wordI_eq_word6]
    exact fits_word6 _ 0x63 0xFF _ _ _ _ 0 0xF 0 0 _ 0 (by decide) (by decide)
  | ldv d =>
    exact ⟨⟨"LDV", 0x64000000#32, 0xFF0FFFFF#32⟩, by decide, rfl,
      fits_word6 _ 0x64 0xFF _ _ _ _ 0 0xF 0xF 0xF 0 0xFF (by decide) (by decide)⟩
  | rdv a =>
    exact ⟨⟨"RDV", 0x65000000#32, 0xFFF0FFFF#32⟩, by decide, rfl,
      fits_word6 _ 0x65 0xFF _ _ _ _ 0xF 0 0xF 0xF 0 0xFF (by decide) (by decide)⟩
  | mku d a b =>
    exact ⟨⟨"MKU", 0x66000000#32, 0xFF000FFF#32⟩, by decide, rfl,
      fits_word6 _ 0x66 0xFF _ _ _ _ 0 0 0 0xF 0 0xFF (by decide) (by decide)⟩
  | mks d a b =>
    exact ⟨⟨"MKS", 0x67000000#32, 0xFF000FFF#32⟩, by decide, rfl,
      fits_word6 _ 0x67 0xFF _ _ _ _ 0 0 0 0xF 0 0xFF (by decide) (by decide)⟩
  | sign d a =>
    exact ⟨⟨"SIGN", 0x68000000#32, 0xFF00FFFF#32⟩, by decide, rfl,
      fits_word6 _ 0x68 0xFF _ _ _ _ 0 0 0xF 0xF 0 0xFF (by decide) (by decide)⟩
  | ghi d a =>
    exact ⟨⟨"GHI", 0x69000000#32, 0xFF00FFFF#32⟩, by decide, rfl,
      fits_word6 _ 0x69 0xFF _ _ _ _ 0 0 0xF 0xF 0 0xFF (by decide) (by decide)⟩
  | glo d a =>
    exact ⟨⟨"GLO", 0x6A000000#32, 0xFF00FFFF#32⟩, by decide, rfl,
      fits_word6 _ 0x6A 0xFF _ _ _ _ 0 0 0xF 0xF 0 0xFF (by decide) (by decide)⟩
  | shi d a =>
    exact ⟨⟨"SHI", 0x6B000000#32, 0xFF00FFFF#32⟩, by decide, rfl,
      fits_word6 _ 0x6B 0xFF _ _ _ _ 0 0 0xF 0xF 0 0xFF (by decide) (by decide)⟩
  | slo d a =>
    exact ⟨⟨"SLO", 0x6C000000#32, 0xFF00FFFF#32⟩, by decide, rfl,
      fits_word6 _ 0x6C 0xFF _ _ _ _ 0 0 0xF 0xF 0 0xFF (by decide) (by decide)⟩
  | build d a b c =>
    exact ⟨⟨"BUILD", 0x70000000#32, 0xFF0000FF#32⟩, by decide, rfl,
      fits_word6 _ 0x70 0xFF _ _ _ _ 0 0 0 0 0 0xFF (by decide) (by decide)⟩
  | buildc d a b c =>
    exact ⟨⟨"BUILDC", 0x71000000#32, 0xFF0000FF#32⟩, by decide, rfl,
      fits_word6 _ 0x71 0xFF _ _ _ _ 0 0 0 0 0 0xFF (by decide) (by decide)⟩
  | fsign d a =>
    exact ⟨⟨"FSIGN", 0x72000000#32, 0xFF00FFFF#32⟩, by decide, rfl,
      fits_word6 _ 0x72 0xFF _ _ _ _ 0 0 0xF 0xF 0 0xFF (by decide) (by decide)⟩
  | fmant d a =>
    exact ⟨⟨"FMANT", 0x73000000#32, 0xFF00FFFF#32⟩, by decide, rfl,
      fits_word6 _ 0x73 0xFF _ _ _ _ 0 0 0xF 0xF 0 0xFF (by decide) (by decide)⟩
  | fexp d a =>
    exact ⟨⟨"FEXP", 0x74000000#32, 0xFF00FFFF#32⟩, by decide, rfl,
      fits_word6 _ 0x74 0xFF _ _ _ _ 0 0 0xF 0xF 0 0xFF (by decide) (by decide)⟩
  | fexc d a =>
    exact ⟨⟨"FEXC", 0x75000000#32, 0xFF00FFFF#32⟩, by decide, rfl,
      fits_word6 _ 0x75 0xFF _ _ _ _ 0 0 0xF 0xF 0 0xFF (by decide) (by decide)⟩
  | fnrm d a =>
    exact ⟨⟨"FNRM", 0x76000000#32, 0xFF00FFFF#32⟩, by decide, rfl,
      fits_word6 _ 0x76 0xFF _ _ _ _ 0 0 0xF 0xF 0 0xFF (by decide) (by decide)⟩

theorem EncodesLegal.clz32 (d a : Reg) : EncodesLegal.Statement (.clz32 d a) := encodesLegal _
theorem EncodesLegal.clz64 (d a : Reg) : EncodesLegal.Statement (.clz64 d a) := encodesLegal _
theorem EncodesLegal.ctz32 (d a : Reg) : EncodesLegal.Statement (.ctz32 d a) := encodesLegal _
theorem EncodesLegal.ctz64 (d a : Reg) : EncodesLegal.Statement (.ctz64 d a) := encodesLegal _
theorem EncodesLegal.popcnt32 (d a : Reg) : EncodesLegal.Statement (.popcnt32 d a) := encodesLegal _
theorem EncodesLegal.popcnt64 (d a : Reg) : EncodesLegal.Statement (.popcnt64 d a) := encodesLegal _
theorem EncodesLegal.shl32 (d a b : Reg) : EncodesLegal.Statement (.shl32 d a b) := encodesLegal _
theorem EncodesLegal.shr32 (d a b : Reg) : EncodesLegal.Statement (.shr32 d a b) := encodesLegal _
theorem EncodesLegal.sar32 (d a b : Reg) : EncodesLegal.Statement (.sar32 d a b) := encodesLegal _
theorem EncodesLegal.rol32 (d a b : Reg) : EncodesLegal.Statement (.rol32 d a b) := encodesLegal _
theorem EncodesLegal.ror32 (d a b : Reg) : EncodesLegal.Statement (.ror32 d a b) := encodesLegal _
theorem EncodesLegal.shl64 (d a b : Reg) : EncodesLegal.Statement (.shl64 d a b) := encodesLegal _
theorem EncodesLegal.shr64 (d a b : Reg) : EncodesLegal.Statement (.shr64 d a b) := encodesLegal _
theorem EncodesLegal.sar64 (d a b : Reg) : EncodesLegal.Statement (.sar64 d a b) := encodesLegal _
theorem EncodesLegal.rol64 (d a b : Reg) : EncodesLegal.Statement (.rol64 d a b) := encodesLegal _
theorem EncodesLegal.ror64 (d a b : Reg) : EncodesLegal.Statement (.ror64 d a b) := encodesLegal _
theorem EncodesLegal.adc (d a b : Reg) : EncodesLegal.Statement (.adc d a b) := encodesLegal _
theorem EncodesLegal.sbb (d a b : Reg) : EncodesLegal.Statement (.sbb d a b) := encodesLegal _
theorem EncodesLegal.clc : EncodesLegal.Statement (.clc) := encodesLegal _
theorem EncodesLegal.stc : EncodesLegal.Statement (.stc) := encodesLegal _
theorem EncodesLegal.getc (d : Reg) : EncodesLegal.Statement (.getc d) := encodesLegal _
theorem EncodesLegal.putc (a : Reg) : EncodesLegal.Statement (.putc a) := encodesLegal _
theorem EncodesLegal.neg (d a : Reg) : EncodesLegal.Statement (.neg d a) := encodesLegal _
theorem EncodesLegal.not (d a : Reg) : EncodesLegal.Statement (.not d a) := encodesLegal _
theorem EncodesLegal.abs (d a : Reg) : EncodesLegal.Statement (.abs d a) := encodesLegal _
theorem EncodesLegal.add (d a b : Reg) : EncodesLegal.Statement (.add d a b) := encodesLegal _
theorem EncodesLegal.sub (d a b : Reg) : EncodesLegal.Statement (.sub d a b) := encodesLegal _
theorem EncodesLegal.rsub (d a b : Reg) : EncodesLegal.Statement (.rsub d a b) := encodesLegal _
theorem EncodesLegal.and (d a b : Reg) : EncodesLegal.Statement (.and d a b) := encodesLegal _
theorem EncodesLegal.or (d a b : Reg) : EncodesLegal.Statement (.or d a b) := encodesLegal _
theorem EncodesLegal.xor (d a b : Reg) : EncodesLegal.Statement (.xor d a b) := encodesLegal _
theorem EncodesLegal.iszero (d a : Reg) : EncodesLegal.Statement (.iszero d a) := encodesLegal _
theorem EncodesLegal.eq (d a b : Reg) : EncodesLegal.Statement (.eq d a b) := encodesLegal _
theorem EncodesLegal.lt (d a b : Reg) : EncodesLegal.Statement (.lt d a b) := encodesLegal _
theorem EncodesLegal.gt (d a b : Reg) : EncodesLegal.Statement (.gt d a b) := encodesLegal _
theorem EncodesLegal.ilt (d a b : Reg) : EncodesLegal.Statement (.ilt d a b) := encodesLegal _
theorem EncodesLegal.igt (d a b : Reg) : EncodesLegal.Statement (.igt d a b) := encodesLegal _
theorem EncodesLegal.cmp (d a b : Reg) : EncodesLegal.Statement (.cmp d a b) := encodesLegal _
theorem EncodesLegal.scmp (d a b : Reg) : EncodesLegal.Statement (.scmp d a b) := encodesLegal _
theorem EncodesLegal.clr (d : Reg) : EncodesLegal.Statement (.clr d) := encodesLegal _
theorem EncodesLegal.mov (d a : Reg) : EncodesLegal.Statement (.mov d a) := encodesLegal _
theorem EncodesLegal.li (d : Reg) (imm : Imm16) : EncodesLegal.Statement (.li d imm) := encodesLegal _
theorem EncodesLegal.lis (d : Reg) (imm : Imm16) : EncodesLegal.Statement (.lis d imm) := encodesLegal _
theorem EncodesLegal.ldv (d : Reg) : EncodesLegal.Statement (.ldv d) := encodesLegal _
theorem EncodesLegal.rdv (a : Reg) : EncodesLegal.Statement (.rdv a) := encodesLegal _
theorem EncodesLegal.mku (d a b : Reg) : EncodesLegal.Statement (.mku d a b) := encodesLegal _
theorem EncodesLegal.mks (d a b : Reg) : EncodesLegal.Statement (.mks d a b) := encodesLegal _
theorem EncodesLegal.sign (d a : Reg) : EncodesLegal.Statement (.sign d a) := encodesLegal _
theorem EncodesLegal.ghi (d a : Reg) : EncodesLegal.Statement (.ghi d a) := encodesLegal _
theorem EncodesLegal.glo (d a : Reg) : EncodesLegal.Statement (.glo d a) := encodesLegal _
theorem EncodesLegal.shi (d a : Reg) : EncodesLegal.Statement (.shi d a) := encodesLegal _
theorem EncodesLegal.slo (d a : Reg) : EncodesLegal.Statement (.slo d a) := encodesLegal _
theorem EncodesLegal.build (d a b c : Reg) : EncodesLegal.Statement (.build d a b c) := encodesLegal _
theorem EncodesLegal.buildc (d a b c : Reg) : EncodesLegal.Statement (.buildc d a b c) := encodesLegal _
theorem EncodesLegal.fsign (d a : Reg) : EncodesLegal.Statement (.fsign d a) := encodesLegal _
theorem EncodesLegal.fmant (d a : Reg) : EncodesLegal.Statement (.fmant d a) := encodesLegal _
theorem EncodesLegal.fexp (d a : Reg) : EncodesLegal.Statement (.fexp d a) := encodesLegal _
theorem EncodesLegal.fexc (d a : Reg) : EncodesLegal.Statement (.fexc d a) := encodesLegal _
theorem EncodesLegal.fnrm (d a : Reg) : EncodesLegal.Statement (.fnrm d a) := encodesLegal _

end Sys2Proof.Laws
end

