-- ==== Sys2Proof/Tests/Slice0.lean ====
section
/-! SUPPORT. The model's own tests. Expected values are the spec's: each command's own example in its rule, `95_test_vectors.md` where a
comment says so, or a hand calculation where it says so; the words are written from each rule's "Encoding". Then the witnesses:
for every statement with hypotheses, a concrete state and operands that meet them. -/

namespace Sys2Proof.Tests

open Sys2Proof Sys2Proof.Machine Sys2Proof.Claims

/-- The reset state with some registers and `CF` set: "the start state is the reset state plus the register values listed". -/
def unitWith (regs : List (Reg × Word)) (cf : Bool) : State :=
  (regs.foldl (fun s p => s.writeX p.1 p.2) State.reset).writeCF cf

/-- What one step of a presented word leaves in a register and in `CF`, with its response's status and `dout`. -/
def outcome (s : State) (cw : CommandWord) (r : Reg) : Option (Word × Bool × BitVec 2 × Word) :=
  match step (s.present ⟨cw, 0xA5A5A5A5A5A5A5A5#64⟩) with
  | .next t => (t.responses.getLast?).map fun a => (t.readX r, t.cf, a.status, a.dout)
  | .fault _ => none
  | .refused _ => none

/-- The next state of an outcome, whose equality is decidable. -/
def nextOf : Outcome → Option State
  | .next t => some t
  | .fault _ => none
  | .refused _ => none

theorem eq_next_of_nextOf {o : Outcome} {t : State} (h : nextOf o = some t) : o = .next t := by
  cases o <;> simp_all [nextOf]

/-! ### Well-formedness: what the check refuses, and what it admits -/

/-- A bit of `zero8` set (R52). -/
theorem test_legal_zero8 : legalWord 0x44123001#32 = false := by decide
/-- A bit of an unused register field set (R52). -/
theorem test_legal_unused : legalWord 0x10120100#32 = false := by decide
/-- A bit of `zero4` set in format I (R52). -/
theorem test_legal_zero4 : legalWord 0x62310001#32 = false := by decide
theorem test_legal_all_zeros : legalWord 0x00000000#32 = false := by decide
theorem test_legal_good : legalWord 0x44123000#32 = true ∧ legalWord 0x70123400#32 = true := by decide
/-- `0x43` is the hole among the arithmetic opcodes (R57). -/
theorem test_opcode_hole : opcodeAssigned 0x43120000#32 = false ∧ opcodeAssigned 0x44120001#32 = true := by decide
/-- `SPLIT` with `xa` equal to `xs` (R60 (c)). -/
theorem test_split_refused : splitWf 1 2 3 1 = false ∧ splitWf 1 2 3 2 = false ∧ splitWf 1 2 3 3 = false := by decide
theorem test_split_good : splitWf 1 2 3 4 = true := by decide

/-! ### Decoding: words written bit by bit as opcode, rd, ra, rb, rc, zero8 (R51) -/

theorem test_decode_clz32 : decode 0b00010000000100100000000000000000#32 = .ok (.clz32 1 2) := by decide
theorem test_decode_popcnt64 : decode 0b00010101111100000000000000000000#32 = .ok (.popcnt64 15 0) := by decide
theorem test_decode_sar32 : decode 0b00100010000100100011000000000000#32 = .ok (.sar32 1 2 3) := by decide
theorem test_decode_ror64 : decode 0b00101100111011011100000000000000#32 = .ok (.ror64 14 13 12) := by decide
theorem test_decode_adc : decode 0b00110000000100010010000000000000#32 = .ok (.adc 1 1 2) := by decide
theorem test_decode_clc : decode 0b00111000000000000000000000000000#32 = .ok (.clc) := by decide
theorem test_decode_getc : decode 0b00111010010100000000000000000000#32 = .ok (.getc 5) := by decide
theorem test_decode_putc : decode 0b00111011000001010000000000000000#32 = .ok (.putc 5) := by decide
theorem test_decode_rsub : decode 0b01000110000100100011000000000000#32 = .ok (.rsub 1 2 3) := by decide
theorem test_decode_scmp : decode 0b01010111000100100011000000000000#32 = .ok (.scmp 1 2 3) := by decide
theorem test_decode_lis : decode 0b01100011001100001111110000000001#32 = .ok (.lis 3 0xFC01#16) := by decide
theorem test_decode_rdv : decode 0b01100101000001000000000000000000#32 = .ok (.rdv 4) := by decide
theorem test_decode_shi : decode 0b01101011000100100000000000000000#32 = .ok (.shi 1 2) := by decide
theorem test_decode_buildc : decode 0b01110001000100100011010000000000#32 = .ok (.buildc 1 2 3 4) := by decide
theorem test_decode_fexp : decode 0b01110100100010010000000000000000#32 = .ok (.fexp 8 9) := by decide

/-- The two ways to be illegal (R57). -/
theorem test_decode_illegal : decode 0x43120000#32 = .error .unassignedOpcode ∧ decode 0x38100000#32 = .error .nonzeroUnused := by
  decide

/-- The table word of a row: 32 bits, bit 0 the word's bit 0; the same bits above a shorter width are zero (log entry 11). -/
theorem test_table_word : decodeTableWord 32 0x45123000 = some (.sub 1 2 3) ∧ decodeTableWord 32 0x43000000 = none := by decide

/-! ### One step of each command, from its rule's example -/

/-- The command with this word, run on these registers, leaves this value in `x[1]` (or the register named) and answers success. -/
def gives (regs : List (Reg × Word)) (cf : Bool) (cw : CommandWord) (r : Reg) (v : Word) (cf' : Bool) : Prop :=
  outcome (unitWith regs cf) cw r = some (v, cf', 0#2, 0#64)

theorem test_clz32 : gives [(2, 0xFFFFFFFF00010000#64)] true 0x10120000#32 1 0x000000000000000F#64 true := by
  unfold gives; decide
/-- R85: "low half 0 gives 32, whatever the high half holds". -/
theorem test_clz32_zero : gives [(2, 0xFFFFFFFF00000000#64)] false 0x10120000#32 1 0x0000000000000020#64 false := by
  unfold gives; decide
theorem test_clz64 : gives [(2, 0x0000000000010000#64)] false 0x11120000#32 1 0x000000000000002F#64 false := by
  unfold gives; decide
theorem test_clz64_zero : gives [(1, 0x0000000000000005#64)] false 0x11120000#32 1 0x0000000000000040#64 false := by
  unfold gives; decide
theorem test_ctz32 : gives [(2, 0x0000000100000000#64)] false 0x12120000#32 1 0x0000000000000020#64 false := by
  unfold gives; decide
theorem test_ctz64 : gives [(2, 0x0000000100000000#64)] false 0x13120000#32 1 0x0000000000000020#64 false := by
  unfold gives; decide
/-- R88. -/
theorem test_ctz64_top : gives [(2, 0x8000000000000000#64)] false 0x13120000#32 1 0x000000000000003F#64 false := by
  unfold gives; decide
theorem test_popcnt32 : gives [(2, 0xFFFFFFFF000000FF#64)] false 0x14120000#32 1 0x0000000000000008#64 false := by
  unfold gives; decide
theorem test_popcnt64 : gives [(2, 0xFFFFFFFF000000FF#64)] false 0x15120000#32 1 0x0000000000000028#64 false := by
  unfold gives; decide
/-- R90. -/
theorem test_popcnt64_ones : gives [(2, 0xFFFFFFFFFFFFFFFF#64)] false 0x15120000#32 1 0x0000000000000040#64 false := by
  unfold gives; decide
theorem test_shl32 : gives [(2, 0x00000000C0000001#64), (3, 0x0000000000000001#64)] true 0x20123000#32 1 0x0000000080000002#64 true := by
  unfold gives; decide
/-- R108: "amount 32 (or any multiple of 32) returns the low half unchanged, zero-extended". -/
theorem test_shl32_width : gives [(2, 0xFFFFFFFF12345678#64), (3, 0x0000000000000020#64)] false 0x20123000#32 1 0x0000000012345678#64 false := by
  unfold gives; decide
theorem test_shr32 : gives [(2, 0xFFFFFFFF80000000#64), (3, 0x000000000000001F#64)] false 0x21123000#32 1 0x0000000000000001#64 false := by
  unfold gives; decide
theorem test_sar32 : gives [(2, 0x0000000080000000#64), (3, 0x0000000000000004#64)] false 0x22123000#32 1 0x00000000F8000000#64 false := by
  unfold gives; decide
theorem test_rol32 : gives [(2, 0x0000000080000001#64), (3, 0x0000000000000004#64)] false 0x23123000#32 1 0x0000000000000018#64 false := by
  unfold gives; decide
theorem test_ror32 : gives [(2, 0x0000000080000001#64), (3, 0x0000000000000004#64)] false 0x24123000#32 1 0x0000000018000000#64 false := by
  unfold gives; decide
theorem test_shl64 : gives [(2, 0x8000000000000001#64), (3, 0x0000000000000001#64)] false 0x28123000#32 1 0x0000000000000002#64 false := by
  unfold gives; decide
/-- R107: "an amount register holding -1 shifts by 63". -/
theorem test_shl64_minus_one : gives [(2, 0x0000000000000003#64), (3, 0xFFFFFFFFFFFFFFFF#64)] false 0x28123000#32 1 0x8000000000000000#64 false := by
  unfold gives; decide
theorem test_shr64 : gives [(2, 0x8000000000000000#64), (3, 0x000000000000003F#64)] false 0x29123000#32 1 0x0000000000000001#64 false := by
  unfold gives; decide
theorem test_sar64 : gives [(2, 0x8000000000000000#64), (3, 0x000000000000003F#64)] false 0x2A123000#32 1 0xFFFFFFFFFFFFFFFF#64 false := by
  unfold gives; decide
theorem test_rol64 : gives [(2, 0x8000000000000001#64), (3, 0x0000000000000004#64)] false 0x2B123000#32 1 0x0000000000000018#64 false := by
  unfold gives; decide
theorem test_ror64 : gives [(2, 0x8000000000000001#64), (3, 0x0000000000000004#64)] false 0x2C123000#32 1 0x1800000000000000#64 false := by
  unfold gives; decide
theorem test_adc : gives [(1, 0xFFFFFFFFFFFFFFFF#64), (2, 0x0000000000000001#64)] false 0x30112000#32 1 0x0000000000000000#64 true := by
  unfold gives; decide
/-- R133: the largest possible sum. -/
theorem test_adc_largest : gives [(2, 0xFFFFFFFFFFFFFFFF#64), (3, 0xFFFFFFFFFFFFFFFF#64)] true 0x30123000#32 1 0xFFFFFFFFFFFFFFFF#64 true := by
  unfold gives; decide
theorem test_sbb : gives [(1, 0x0000000000000000#64), (2, 0x0000000000000001#64)] false 0x31112000#32 1 0xFFFFFFFFFFFFFFFF#64 true := by
  unfold gives; decide
/-- R134: d = -2^64, where `unsigned(b) + unsigned(bin)` must not wrap. -/
theorem test_sbb_wrap : gives [(2, 0x0000000000000000#64), (3, 0xFFFFFFFFFFFFFFFF#64)] true 0x31123000#32 1 0x0000000000000000#64 true := by
  unfold gives; decide
theorem test_clc : gives [(1, 0x0000000000000007#64)] true 0x38000000#32 1 0x0000000000000007#64 false := by
  unfold gives; decide
theorem test_stc : gives [(1, 0x0000000000000007#64)] false 0x39000000#32 1 0x0000000000000007#64 true := by
  unfold gives; decide
theorem test_getc : gives [(5, 0x0000000000000009#64)] true 0x3A500000#32 5 0x0000000000000001#64 true := by
  unfold gives; decide
theorem test_putc : gives [(5, 0x0000000000000003#64)] false 0x3B050000#32 5 0x0000000000000003#64 true := by
  unfold gives; decide
/-- R138: "a register holding 2 gives `CF = 0`". -/
theorem test_putc_bit0 : gives [(5, 0x0000000000000002#64)] true 0x3B050000#32 5 0x0000000000000002#64 false := by
  unfold gives; decide
theorem test_neg : gives [(2, 0x0000000000000001#64)] true 0x40120000#32 1 0xFFFFFFFFFFFFFFFF#64 true := by
  unfold gives; decide
/-- R151. -/
theorem test_neg_min : gives [(2, 0x8000000000000000#64)] false 0x40120000#32 1 0x8000000000000000#64 false := by
  unfold gives; decide
theorem test_not : gives [(2, 0x00000000FFFFFFFF#64)] false 0x41120000#32 1 0xFFFFFFFF00000000#64 false := by
  unfold gives; decide
theorem test_abs : gives [(2, 0xFFFFFFFFFFFFFFFE#64)] false 0x42120000#32 1 0x0000000000000002#64 false := by
  unfold gives; decide
/-- R153. -/
theorem test_abs_min : gives [(2, 0x8000000000000000#64)] false 0x42120000#32 1 0x8000000000000000#64 false := by
  unfold gives; decide
theorem test_add : gives [(2, 0x0000000000000007#64), (3, 0xFFFFFFFFFFFFFFFF#64)] true 0x44123000#32 1 0x0000000000000006#64 true := by
  unfold gives; decide
theorem test_sub : gives [(2, 0x0000000000000005#64), (3, 0x0000000000000007#64)] false 0x45123000#32 1 0xFFFFFFFFFFFFFFFE#64 false := by
  unfold gives; decide
theorem test_rsub : gives [(2, 0x0000000000000005#64), (3, 0x0000000000000007#64)] false 0x46123000#32 1 0x0000000000000002#64 false := by
  unfold gives; decide
theorem test_and : gives [(2, 0x00FF00FF00FF00FF#64), (3, 0x0F0F0F0F0F0F0F0F#64)] false 0x47123000#32 1 0x000F000F000F000F#64 false := by
  unfold gives; decide
theorem test_or : gives [(2, 0x00FF00FF00FF00FF#64), (3, 0x0F0F0F0F0F0F0F0F#64)] false 0x48123000#32 1 0x0FFF0FFF0FFF0FFF#64 false := by
  unfold gives; decide
theorem test_xor : gives [(2, 0x00FF00FF00FF00FF#64), (3, 0x0F0F0F0F0F0F0F0F#64)] false 0x49123000#32 1 0x0FF00FF00FF00FF0#64 false := by
  unfold gives; decide
theorem test_iszero : gives [(1, 0x0000000000000005#64)] false 0x50120000#32 1 0x0000000000000001#64 false := by
  unfold gives; decide
theorem test_iszero_not : gives [(2, 0x8000000000000000#64)] false 0x50120000#32 1 0x0000000000000000#64 false := by
  unfold gives; decide
theorem test_eq : gives [(2, 0x0000000000000005#64), (3, 0x0000000000000005#64)] false 0x51123000#32 1 0x0000000000000001#64 false := by
  unfold gives; decide
theorem test_lt : gives [(2, 0x0000000000000001#64), (3, 0xFFFFFFFFFFFFFFFF#64)] false 0x52123000#32 1 0x0000000000000001#64 false := by
  unfold gives; decide
theorem test_gt : gives [(2, 0x0000000000000001#64), (3, 0xFFFFFFFFFFFFFFFF#64)] false 0x53123000#32 1 0x0000000000000000#64 false := by
  unfold gives; decide
theorem test_ilt : gives [(2, 0x0000000000000001#64), (3, 0xFFFFFFFFFFFFFFFF#64)] false 0x54123000#32 1 0x0000000000000000#64 false := by
  unfold gives; decide
theorem test_igt : gives [(2, 0x0000000000000001#64), (3, 0xFFFFFFFFFFFFFFFF#64)] false 0x55123000#32 1 0x0000000000000001#64 false := by
  unfold gives; decide
theorem test_cmp : gives [(2, 0xFFFFFFFFFFFFFFFF#64), (3, 0x0000000000000001#64)] false 0x56123000#32 1 0x0000000000000001#64 false := by
  unfold gives; decide
theorem test_scmp : gives [(2, 0xFFFFFFFFFFFFFFFF#64), (3, 0x0000000000000001#64)] false 0x57123000#32 1 0xFFFFFFFFFFFFFFFF#64 false := by
  unfold gives; decide
theorem test_clr : gives [(7, 0x0000000000000005#64)] true 0x60700000#32 7 0x0000000000000000#64 true := by
  unfold gives; decide
theorem test_mov : gives [(2, 0x0123456789ABCDEF#64)] false 0x61120000#32 1 0x0123456789ABCDEF#64 false := by
  unfold gives; decide
theorem test_li : gives [(3, 0xFFFFFFFFFFFFFFFF#64)] false 0x623003FF#32 3 0x00000000000003FF#64 false := by
  unfold gives; decide
theorem test_lis : gives [] false 0x6330FC01#32 3 0xFFFFFFFFFFFFFC01#64 false := by
  unfold gives; decide
/-- The test's own `din`. -/
theorem test_ldv : gives [] false 0x64100000#32 1 0xA5A5A5A5A5A5A5A5#64 false := by
  unfold gives; decide
theorem test_mku : gives [(2, 0x00000000DEADBEEF#64), (3, 0xFFFFFFFF00000001#64)] false 0x66123000#32 1 0xDEADBEEF00000001#64 false := by
  unfold gives; decide
theorem test_mks : gives [(2, 0x00000000DEADBEEF#64), (3, 0xFFFFFFFF00000001#64)] false 0x67123000#32 1 0xDEADBEEF00000001#64 false := by
  unfold gives; decide
theorem test_sign : gives [(2, 0x8000000000000000#64)] false 0x68120000#32 1 0x0000000000000001#64 false := by
  unfold gives; decide
theorem test_ghi : gives [(2, 0xDEADBEEF00000001#64)] false 0x69120000#32 1 0x00000000DEADBEEF#64 false := by
  unfold gives; decide
theorem test_glo : gives [(2, 0xDEADBEEF00000001#64)] false 0x6A120000#32 1 0x0000000000000001#64 false := by
  unfold gives; decide
theorem test_shi : gives [(1, 0x1111111122222222#64), (2, 0x00000000AAAAAAAA#64)] false 0x6B120000#32 1 0xAAAAAAAA22222222#64 false := by
  unfold gives; decide
theorem test_slo : gives [(1, 0x1111111122222222#64), (2, 0x00000000AAAAAAAA#64)] false 0x6C120000#32 1 0x11111111AAAAAAAA#64 false := by
  unfold gives; decide
theorem test_build : gives [(2, 0x0000000000000001#64), (3, 0x0010000000000000#64), (4, 0x0000000000000001#64)] false 0x70123400#32 1 0x4000000000000000#64 false := by
  unfold gives; decide
/-- R222: "e = 1025 gives field 0". -/
theorem test_build_wraps : gives [(2, 0x0000000000000001#64), (4, 0x0000000000000401#64)] false 0x70123400#32 1 0x0000000000000000#64 false := by
  unfold gives; decide
theorem test_buildc : gives [(2, 0xFFFFFFFFFFFFFFFF#64), (3, 0x0018000000000000#64), (4, 0x0000000000000000#64)] true 0x71123400#32 1 0xBFF8000000000000#64 true := by
  unfold gives; decide
theorem test_fsign : gives [(2, 0xC000000000000000#64)] false 0x72120000#32 1 0xFFFFFFFFFFFFFFFF#64 false := by
  unfold gives; decide
theorem test_fmant : gives [(2, 0x4008000000000000#64)] false 0x73120000#32 1 0x0018000000000000#64 false := by
  unfold gives; decide
theorem test_fexp : gives [(2, 0x4008000000000000#64)] false 0x74120000#32 1 0x0000000000000001#64 false := by
  unfold gives; decide
/-- R232. -/
theorem test_fexp_zero : gives [] false 0x74120000#32 1 0xFFFFFFFFFFFFFC01#64 false := by
  unfold gives; decide
theorem test_fexc : gives [] false 0x75120000#32 1 0x0000000000000001#64 false := by
  unfold gives; decide
theorem test_fnrm : gives [(2, 0x4000000000000000#64)] false 0x76120000#32 1 0x0000000000000001#64 false := by
  unfold gives; decide
/-- R196: the response carries the register. -/
theorem test_rdv : outcome (unitWith [(4, 0xFF#64)] true) 0x65040000#32 4 = some (0xFF#64, true, 0#2, 0xFF#64) := by decide

/-! ### Faults (R229, R250 to R253) -/

/-- R229: bit 52 clear with a normal exponent; `x[1]` keeps its old value. -/
theorem test_buildc_invariant :
    outcome (unitWith [(1, 77#64), (2, 0xFFFFFFFFFFFFFFFF#64), (3, 0x0008000000000000#64)] true) 0x71123400#32 1
      = some (77#64, true, 3#2, 0#64) := by decide
/-- R229: -1024 and the most negative number raise RangeError, whatever the mantissa. -/
theorem test_buildc_range :
    outcome (unitWith [(1, 77#64), (4, 0xFFFFFFFFFFFFFC00#64)] false) 0x71123400#32 1 = some (77#64, false, 2#2, 0#64) ∧
    outcome (unitWith [(1, 77#64), (4, 0x8000000000000000#64)] false) 0x71123400#32 1 = some (77#64, false, 2#2, 0#64) := by
  decide
/-- R57, R251: an illegal word. -/
theorem test_illegal : outcome (unitWith [(1, 77#64)] true) 0xFFFFFFFF#32 1 = some (77#64, true, 1#2, 0#64) := by decide

/-! ### The port, reset and what a program starts with -/

/-- R280: reset while a command is being executed; its response is not produced and the next command runs as any other. -/
theorem test_reset_event :
    step { unitWith [(1, 5#64)] true with pending := [.reset (some ⟨0x65010000#32, 0#64⟩), .command ⟨0x65010000#32, 0#64⟩] }
      = .next { State.reset with pending := [.command ⟨0x65010000#32, 0#64⟩] } := eq_next_of_nextOf (by decide)
/-- R263: idle. -/
theorem test_idle : step (unitWith [(1, 5#64)] true) = .next (unitWith [(1, 5#64)] true) :=
  eq_next_of_nextOf (by decide)
/-- R282: "`RDV x0` returns 0" as the first command after reset. -/
theorem test_first_command : outcome State.reset 0x65000000#32 0 = some (0#64, false, 0#2, 0#64) := by decide
/-- Log entry 11: the very next step runs the word, and nothing else that waits is lost. -/
theorem test_withFetchWord :
    nextOf (step ((unitWith [(2, 5#64), (3, 7#64)] false).withFetchWord 32 0x45123000))
      = nextOf (exec (.sub 1 2 3) (unitWith [(2, 5#64), (3, 7#64)] false)) := by decide
/-- The first steps of program P1 of 95_test_vectors.md: `LDV x0`, `LDV x2`, `CLC`, `ADC x4, x0, x2` leave the low limb and its carry. -/
theorem test_program_P1 :
    (match Sys2Proof.core.run 4 { State.reset with pending := [.command ⟨0x64000000#32, 0xFEDCBA9876543210#64⟩,
        .command ⟨0x64200000#32, 0x123456789ABCDEF0#64⟩, .command ⟨0x38000000#32, 0#64⟩, .command ⟨0x30402000#32, 0#64⟩] } with
      | .next (t : State) => some (t.readX 4, t.cf, t.responses.length)
      | _ => none) = some (0x1111111111111100#64, true, 4) := by decide

/-! ### The assembler (R59, R60) -/

theorem test_asm_regs : assembleText "SHL64 x1, x2, x15 ; a comment" = some [⟨0x2812F000#32, 0#64⟩] := by decide
theorem test_asm_negative : assembleText "LIS x3, -1023" = some [⟨0x6330FC01#32, 0#64⟩] := by decide
theorem test_asm_data : assembleText "LDV x1, =0x4000000000000000" = some [⟨0x64100000#32, 0x4000000000000000#64⟩] := by decide
theorem test_asm_in_place : assembleText "ADD2 x1, x2" = some [⟨0x30112000#32, 0#64⟩] := by decide
theorem test_asm_split : assembleText "SPLIT x1, x2, x3, x4, x4"
    = some [⟨0x72140000#32, 0#64⟩, ⟨0x73240000#32, 0#64⟩, ⟨0x74340000#32, 0#64⟩, ⟨0x75440000#32, 0#64⟩] := by decide
theorem test_asm_split_rejected : assembleText "SPLIT x1, x2, x3, x4, x2" = none := by decide
theorem test_asm_rejects : assembleText "SHI x1" = none ∧ assembleText "LI x1, 65536" = none := by decide

/-! ### Witnesses: states and operands that meet the hypotheses of the statements -/

/-- A state with one command waiting. -/
def waiting (regs : List (Reg × Word)) (cw : CommandWord) (din : Word) : State :=
  (unitWith regs false).present ⟨cw, din⟩

theorem witness_EncodeOfDecodeIsTheWord : decode 0x6330FC01#32 = .ok (.lis 3 0xFC01#16) := by decide

theorem witness_LegalWordsAreThoseOfTheOpcodeMap :
    decode 0x44FFF000#32 = .ok (.add 15 15 15) ∧ (∃ r ∈ opcodeMap, 0x44FFF000#32 &&& r.mask = r.matchWord) ∧
    NoRowFits 0x44FFF001#32 ∧ (waiting [] 0x44FFF001#32 1).pending = [.command ⟨0x44FFF001#32, 1⟩] := by
  unfold NoRowFits; decide

theorem witness_IllegalWordsRaiseIllegalCommand :
    unassigned ((0x77000000#32).toNat / 2 ^ 24) = true ∧ unassigned ((0x0F123456#32).toNat / 2 ^ 24) = true ∧
    unassigned ((0x76120001#32).toNat / 2 ^ 24) = false ∧ NoRowFits 0x76120001#32 ∧
    unassigned ((0x10120100#32).toNat / 2 ^ 24) = false ∧ NoRowFits 0x10120100#32 ∧
    (waiting [] 0x10120100#32 1).pending = [.command ⟨0x10120100#32, 1⟩] := by
  unfold NoRowFits; decide

theorem witness_PseudoInstructionsRewrite :
    (opcodeNamed "ADD").bind formOf = some (.rdRaRb .add) ∧ (opcodeNamed "NEG").bind formOf = some (.rdRa .neg) ∧
    "NEG" ≠ "SHI" ∧ "NEG" ≠ "SLO" := ⟨rfl, rfl, by decide, by decide⟩

theorem witness_StepRunsTheDecodedCommand :
    (waiting [(2, 5)] 0x11120000#32 3).pending = .command ⟨0x11120000#32, 3⟩ :: [] ∧
      decode (0x11120000#32) = .ok (.clz64 1 2) := by decide

theorem witness_IdleStepHoldsTheState : (unitWith [(2, 5)] true).pending = [] := by decide

theorem witness_ResetEventClearsTheUnit :
    ({ unitWith [(1, 5)] true with pending := [.reset (some ⟨0x60100000#32, 0⟩), .reset none] } : State).pending
      = .reset (some ⟨0x60100000#32, 0⟩) :: [.reset none] := by decide

/-- A state that has answered, and its step. -/
theorem witness_StepKeepsResponsesWellFormed :
    ({ waiting [(4, 9)] 0x65040000#32 0 with responses := [⟨1, 0⟩, ⟨0, 7⟩] } : State).Inv ∧
    step { waiting [(4, 9)] 0x65040000#32 0 with responses := [⟨1, 0⟩, ⟨0, 7⟩] }
      = .next { unitWith [(4, 9)] false with responses := [⟨1, 0⟩, ⟨0, 7⟩, ⟨0, 9⟩] } := by
  refine ⟨?_, eq_next_of_nextOf (by decide)⟩
  show ∀ r ∈ [(⟨1, 0⟩ : Response), ⟨0, 7⟩], responseWf r = true
  decide

/-- A RangeError with an `LDV` waiting behind it. -/
theorem witness_FaultLeavesNoTrace :
    let behind : List HostEvent := [.command ⟨0x64200000#32, 8⟩]
    let s : State := { unitWith [(1, 77), (4, 1025)] true with pending := .command ⟨0x71123400#32, 0⟩ :: behind }
    step s = .next { s with pending := behind, responses := [⟨2, 0⟩] } ∧ (⟨2, 0⟩ : Response).status ≠ 0 ∧
    step { s with pending := behind }
      = .next { unitWith [(1, 77), (4, 1025), (2, 8)] true with din := 8, responses := [⟨0, 0⟩] } :=
  ⟨eq_next_of_nextOf (by decide), by decide, eq_next_of_nextOf (by decide)⟩

/-- Two states with the same unit and different ports. -/
theorem witness_ResultDependsOnUnitStateOnly :
    let s₁ := waiting [(2, 5)] 0x11120000#32 3
    let s₂ : State := { s₁ with din := 9, responses := [⟨1, 0⟩], pending := [.command ⟨0x11120000#32, 3⟩, .reset none] }
    s₁.x = s₂.x ∧ s₁.cf = s₂.cf ∧ s₁.pending = [.command ⟨0x11120000#32, 3⟩] ∧
      s₂.pending = .command ⟨0x11120000#32, 3⟩ :: [.reset none] := by decide

/-- States that differ in a register that is no source, in `CF` and in `din`; and one command each that reads `CF` and `din`. -/
theorem witness_SourcesDetermineTheResult :
    let s₁ := unitWith [(2, 5), (3, 6)] true
    let s₂ : State := { unitWith [(2, 5), (3, 7)] false with din := 4 }
    (∀ r ∈ (Instr.clz64 1 2).sources, s₁.readX r = s₂.readX r) ∧ (Instr.clz64 1 2).readsCF = false ∧
    (Instr.clz64 1 2).readsDin = false ∧ s₁ ≠ s₂ ∧
    (∀ r ∈ (Instr.adc 1 2 2).sources, s₁.readX r = s₂.readX r) ∧ (Instr.adc 1 2 2).readsCF = true ∧
    s₁.cf = (s₂.writeCF true).cf ∧ (Instr.ldv 1).readsDin = true ∧ ({ s₁ with din := 4 } : State).din = s₂.din := by decide

theorem witness_FrameOfEveryCommand :
    exec (.sub 1 2 3) (unitWith [(2, 5), (3, 7)] true)
      = .next { unitWith [(1, 0xFFFFFFFFFFFFFFFE#64), (2, 5), (3, 7)] true with responses := [⟨0, 0⟩] } ∧
    (Instr.sub 1 2 3).destination ≠ some 2 ∧ (Instr.rdv 1).destination ≠ some 1 :=
  ⟨eq_next_of_nextOf (by decide), by decide, by decide⟩

/-- The inner hypotheses: a `BUILDC` that faults and an `RDV` with data. -/
theorem witness_OnlyBuildcFaultsAndOnlyRdvSendsData :
    exec (.buildc 1 2 3 4) (unitWith [(4, 1025)] true)
      = .next { unitWith [(4, 1025)] true with responses := [⟨2, 0⟩] } ∧
    exec (.rdv 4) (unitWith [(4, 1025)] true) = .next { unitWith [(4, 1025)] true with responses := [⟨0, 1025⟩] } :=
  ⟨eq_next_of_nextOf (by decide), eq_next_of_nextOf (by decide)⟩

theorem witness_BitCountRelations :
    (0x18#8 : BitVec 8) ≠ 0 ∧ clz 0x18#8 + ctz 0x18#8 < 8 - 1 ∧ clz 0x10#8 + ctz 0x10#8 = 8 - 1 ∧ (1#32 : BitVec 32) ≠ 0 := by
  decide

theorem witness_ShiftRightArithmetic : (0x7F#8).getLsbD (8 - 1) = false := by decide
theorem witness_RotateLeft : 64 % 64 = 0 ∧ 65 % 64 ≠ 0 := by decide
theorem witness_RotateRight : 96 % 32 = 0 ∧ 31 % 32 ≠ 0 := by decide
theorem witness_ShiftAndRotateLaws : (32 = 32 ∨ 32 = 64) ∧ 96 % 32 = 0 ∧ (64 = 32 ∨ 64 = 64) ∧ 128 % 64 = 0 := by decide
theorem witness_RotateLeftThenRightRestores : (1 : Reg) ≠ 3 := by decide

/-- Each clause, at operands that tell the two orders apart. -/
theorem witness_ThreeWayComparisons :
    let s := unitWith [(1, 1), (2, 0xFFFFFFFFFFFFFFFF#64), (3, 0x8000000000000000#64)] false
    (s.readX 1).toNat < (s.readX 2).toNat ∧ (s.readX 2).toNat > (s.readX 1).toNat ∧ (s.readX 2).toInt < (s.readX 1).toInt ∧
    (s.readX 1).toInt > (s.readX 3).toInt ∧ s.readX 4 = s.readX 5 := by decide

theorem witness_ThreeWayFunctions :
    (0#64).toNat < (1#64).toNat ∧ (1#64).toNat > (0#64).toNat ∧ (0x8000000000000000#64).toInt < (0#64).toInt ∧
    (0x7FFFFFFFFFFFFFFF#64).toInt > (0x8000000000000000#64).toInt ∧
    (0x8000000000000000#64).getLsbD 63 = (0xFFFFFFFFFFFFFFFF#64).getLsbD 63 ∧
    (0x8000000000000000#64).getLsbD 63 ≠ (0x7FFFFFFFFFFFFFFF#64).getLsbD 63 := by decide

theorem witness_ComparisonRelations :
    let s := unitWith [(1, 5)] false
    let t := unitWith [(1, 0x8000000000000005#64), (2, 0x8000000000000000#64)] false
    t.readX 1 = s.readX 1 ^^^ 0x8000000000000000#64 ∧ t.readX 2 = s.readX 2 ^^^ 0x8000000000000000#64 ∧ s.readX 2 = 0 := by decide

theorem witness_HostTransfer :
    (waiting [] (cwR 0x64 15 0 0 0) 6).pending = .command ⟨cwR 0x64 (15 : Reg) 0 0 0, 6⟩ :: [] ∧
    (∀ rd, Instr.clz32 1 2 ≠ .ldv rd) ∧ (∀ ra, Instr.clz32 1 2 ≠ .rdv ra) := by decide

/-- The completing clause at its four boundary exponents. -/
theorem witness_CheckedBuild :
    let s := unitWith [(1, 0xFFFFFFFFFFFFFC02#64), (2, 1023), (3, 0xFFFFFFFFFFFFFC01#64), (4, 1024), (5, 0x0010000000000000#64)] false
    (-1022 ≤ (s.readX 1).toInt ∧ (s.readX 1).toInt ≤ 1023 ∧ (s.readX 5).getLsbD 52 = true) ∧
    (-1022 ≤ (s.readX 2).toInt ∧ (s.readX 2).toInt ≤ 1023 ∧ (s.readX 5).getLsbD 52 = true) ∧
    ((s.readX 3).toInt = -1023 ∧ (s.readX 6).getLsbD 52 = false) ∧ ((s.readX 4).toInt = 1024 ∧ (s.readX 6).getLsbD 52 = false) := by
  decide

/-- The faulting clauses at their boundary exponents, with the word presented. -/
theorem witness_BuildcFaultsAreReported :
    let s := waiting [(1, 0xFFFFFFFFFFFFFC00#64), (2, 1025), (3, 0xFFFFFFFFFFFFFC02#64), (4, 1023), (5, 0xFFFFFFFFFFFFFC01#64),
      (6, 1024), (7, 0x0010000000000000#64)] (cwR 0x71 0 0 8 3) 1
    s.pending = .command ⟨cwR 0x71 (0 : Reg) (0 : Reg) (8 : Reg) (3 : Reg), 1⟩ :: [] ∧
    (s.readX 1).toInt < -1023 ∧ (s.readX 2).toInt > 1024 ∧
    ((s.readX 8).getLsbD 52 = false ∧ -1022 ≤ (s.readX 3).toInt ∧ (s.readX 3).toInt ≤ 1023) ∧
    (-1022 ≤ (s.readX 4).toInt ∧ (s.readX 4).toInt ≤ 1023) ∧
    ((s.readX 7).getLsbD 52 = true ∧ (s.readX 5).toInt = -1023 ∧ (s.readX 6).toInt = 1024) := by decide

theorem witness_ExceptionalAndNormal : 11 ≤ 11 := by decide

theorem witness_SplitPerClass :
    classify 0x8000000000000000#64 = .zero ∧ classify 0x000FFFFFFFFFFFFF#64 = .subnormal ∧
    classify 0x0010000000000000#64 = .normal ∧ classify 0x7FEFFFFFFFFFFFFF#64 = .normal ∧
    classify 0xFFF0000000000000#64 = .infinity ∧ classify 0x7FF0000000000001#64 = .nan := by decide

theorem witness_RoundTrips :
    (-1022 ≤ (-1022 : Int) ∧ (-1022 : Int) ≤ 1023 ∧ (0x0010000000000000#64).getLsbD 52 = true ∧
      (0x0010000000000000#64).toNat < 2 ^ 53) ∧
    ((0x001FFFFFFFFFFFFF#64).getLsbD 52 = true ∧ (0x001FFFFFFFFFFFFF#64).toNat < 2 ^ 53 ∧ (1023 : Int) ≤ 1023) ∧
    (((1024 : Int) = -1023 ∨ (1024 : Int) = 1024) ∧ (0x000FFFFFFFFFFFFF#64).toNat < 2 ^ 52) := by decide

theorem witness_SplitThenBuildIsIdentity :
    let xp : Reg := 4
    let xs : Reg := 1
    let xm : Reg := 2
    let xe : Reg := 3
    xs ≠ xm ∧ xs ≠ xe ∧ xm ≠ xe ∧ xp ≠ xs ∧ xp ≠ xm := by decide

/-- Both signs, the exponents -1022 and 1023, the smallest and the largest mantissa. -/
theorem witness_BuildThenSplitIsIdentity :
    let s := unitWith [(1, 1), (2, 0xFFFFFFFFFFFFFFFF#64), (3, 0xFFFFFFFFFFFFFC02#64), (4, 1023), (5, 0x0010000000000000#64),
      (6, 0x001FFFFFFFFFFFFF#64)] false
    s.readX 1 = 1 ∧ s.readX 2 = 0xFFFFFFFFFFFFFFFF#64 ∧ -1022 ≤ (s.readX 3).toInt ∧ (s.readX 3).toInt ≤ 1023 ∧
    -1022 ≤ (s.readX 4).toInt ∧ (s.readX 4).toInt ≤ 1023 ∧ 2 ^ 52 ≤ (s.readX 5).toNat ∧ (s.readX 5).toNat < 2 ^ 53 ∧
    2 ^ 52 ≤ (s.readX 6).toNat ∧ (s.readX 6).toNat < 2 ^ 53 := by decide

end Sys2Proof.Tests
end

section
/-! PROOFS. Totality of the unit (spec/00_scope.md R11, spec/70_reset_and_hazards.md R288): neither a command nor a step is ever stuck. -/

namespace Sys2Proof.Proofs

open Sys2Proof.Machine

/-- Each of the five ways in which a command can end is a next state; a reported fault is one of them. -/
theorem exec_answers (i : Instr) (s : State) : ∃ t, exec i s = .next t := by
  obtain ⟨rd, v, -, -, -, h⟩ | ⟨rd, v, c, -, -, -, h⟩ | ⟨c, -, -, -, h⟩ | ⟨v, -, -, -, h⟩ | ⟨f, -, -, -, h⟩ := exec_shape i s
  · exact ⟨_, h.trans (writeResult_next.mpr rfl)⟩
  · exact ⟨_, h.trans (writeResultCF_next.mpr rfl)⟩
  · exact ⟨_, h.trans (writeFlag_next.mpr rfl)⟩
  · exact ⟨_, h.trans (sendData_next.mpr rfl)⟩
  · exact ⟨_, h.trans (raise_next.mpr rfl)⟩

/-- The cases are the events the host can present; a presented word is a command to execute or an illegal one, which is reported. -/
theorem step_goes (s : State) : s.Goes := by
  unfold State.Goes
  cases hp : s.pending with
  | nil => exact ⟨s, step_idle hp⟩
  | cons event rest =>
    cases event with
    | reset lost => exact ⟨_, step_reset hp⟩
    | command c =>
      cases hd : decode c.cw with
      | error e => exact ⟨_, (step_illegal hp hd).trans (raise_next.mpr rfl)⟩
      | ok i =>
        obtain ⟨t, ht⟩ := exec_answers i (s.accept c rest)
        exact ⟨t, (step_command hp hd).trans ht⟩

/-- Settles O13: every state goes on. -/
theorem everyStepAnswers : Obligations.EveryStepAnswers := step_goes

end Sys2Proof.Proofs
end

section
/-! PROOFS. What a command does to the state, as data: at most one register write, at most one write of `CF`, and one response
(spec/10_state.md R23, R26, R40). A command's sources (R32) determine its effect; frames and non-interference follow from that. -/

namespace Sys2Proof.Proofs

open Sys2Proof.Machine

/-- What a command changes. -/
structure Effect where
  /-- The register written and its new value. -/
  write : Option (Reg × Word)
  /-- The new `CF`. -/
  flag : Option Bool
  response : Response

/-- The state after the effect. -/
def Effect.apply (e : Effect) (s : State) : State :=
  { s with
    x := (e.write.elim s fun w => s.writeX w.1 w.2).x
    cf := e.flag.getD s.cf
    responses := s.responses ++ [e.response] }

/-- The table of R32 allows the command this effect. Only a success has to write the destination (R259). -/
structure Effect.Suits (e : Effect) (i : Instr) : Prop where
  write : ∀ w, e.write = some w → i.destination = some w.1
  writeOfSuccess : e.response.status = 0 → e.write.map Prod.fst = i.destination
  flag : e.flag.isSome = i.writesCF

section Apply

variable (e : Effect) (s : State)

@[simp] theorem Effect.apply_cf : (e.apply s).cf = e.flag.getD s.cf := rfl
@[simp] theorem Effect.apply_pending : (e.apply s).pending = s.pending := rfl
@[simp] theorem Effect.apply_din : (e.apply s).din = s.din := rfl
@[simp] theorem Effect.apply_responses : (e.apply s).responses = s.responses ++ [e.response] := rfl

theorem Effect.readX_apply (q : Reg) :
    (e.apply s).readX q = e.write.elim (s.readX q) fun w => if q = w.1 then w.2 else s.readX q := by
  unfold Effect.apply State.readX
  cases e.write with
  | none => rfl
  | some w => exact readX_writeX s w.1 q w.2

/-- The registers after an effect depend on the registers before it only. -/
theorem Effect.apply_x_congr {s₁ s₂ : State} (h : s₁.x = s₂.x) : (e.apply s₁).x = (e.apply s₂).x :=
  x_ext fun q => by rw [readX_apply, readX_apply]; simp only [State.readX, h]

theorem Effect.readX_apply_written {r : Reg} {v : Word} (h : e.write = some (r, v)) : (e.apply s).readX r = v := by
  simp [readX_apply, h]

theorem Effect.readX_apply_unwritten {q : Reg} (h : ∀ w, e.write = some w → w.1 ≠ q) :
    (e.apply s).readX q = s.readX q := by
  rw [readX_apply]
  cases hw : e.write with
  | none => rfl
  | some w => exact if_neg (h w hw).symm

end Apply

/-! ### Sources determine the effect -/

/-- The states agree on all that R32 says the command reads. -/
structure SameSources (i : Instr) (s₁ s₂ : State) : Prop where
  x : ∀ r ∈ i.sources, s₁.readX r = s₂.readX r
  cf : i.readsCF = true → s₁.cf = s₂.cf
  din : i.readsDin = true → s₁.din = s₂.din

/-- The command has one and the same effect on both states. -/
def SameEffect (i : Instr) (s₁ s₂ : State) : Prop :=
  ∃ e : Effect, e.Suits i ∧ exec i s₁ = .next (e.apply s₁) ∧ exec i s₂ = .next (e.apply s₂)

section SameEffect

variable {i : Instr} {s₁ s₂ : State}

theorem sameEffect_of_writeResult {rd : Reg} {v₁ v₂ : Word} (hd : i.destination = some rd) (hc : i.writesCF = false)
    (h₁ : exec i s₁ = writeResult rd v₁ s₁) (h₂ : exec i s₂ = writeResult rd v₂ s₂) (hv : v₁ = v₂) :
    SameEffect i s₁ s₂ := by
  subst hv
  exact ⟨⟨some (rd, v₁), none, ⟨0, 0⟩⟩, ⟨by simp [hd], by simp [hd], by simp [hc]⟩, h₁, h₂⟩

theorem sameEffect_of_writeResultCF {rd : Reg} {r₁ r₂ : Word × Bool} (hd : i.destination = some rd)
    (hc : i.writesCF = true) (h₁ : exec i s₁ = writeResultCF rd r₁.1 r₁.2 s₁)
    (h₂ : exec i s₂ = writeResultCF rd r₂.1 r₂.2 s₂) (hr : r₁ = r₂) : SameEffect i s₁ s₂ := by
  subst hr
  exact ⟨⟨some (rd, r₁.1), some r₁.2, ⟨0, 0⟩⟩, ⟨by simp [hd], by simp [hd], by simp [hc]⟩, h₁, h₂⟩

theorem sameEffect_of_writeFlag {c₁ c₂ : Bool} (hd : i.destination = none) (hc : i.writesCF = true)
    (h₁ : exec i s₁ = writeFlag c₁ s₁) (h₂ : exec i s₂ = writeFlag c₂ s₂) (h : c₁ = c₂) : SameEffect i s₁ s₂ := by
  subst h
  exact ⟨⟨none, some c₁, ⟨0, 0⟩⟩, ⟨by simp, by simp [hd], by simp [hc]⟩, h₁, h₂⟩

theorem sameEffect_of_sendData {v₁ v₂ : Word} (hd : i.destination = none) (hc : i.writesCF = false)
    (h₁ : exec i s₁ = sendData v₁ s₁) (h₂ : exec i s₂ = sendData v₂ s₂) (hv : v₁ = v₂) : SameEffect i s₁ s₂ := by
  subst hv
  exact ⟨⟨none, none, ⟨0, v₁⟩⟩, ⟨by simp, by simp [hd], by simp [hc]⟩, h₁, h₂⟩

theorem faultCode_ne_zero (f : FaultKind) : f.code ≠ 0 := by cases f <;> decide

theorem sameEffect_of_raise {f : FaultKind} (hc : i.writesCF = false) (h₁ : exec i s₁ = raise f s₁)
    (h₂ : exec i s₂ = raise f s₂) : SameEffect i s₁ s₂ :=
  ⟨⟨none, none, ⟨f.code, 0⟩⟩, ⟨by simp, fun h => absurd h (faultCode_ne_zero f), by simp [hc]⟩, h₁, h₂⟩

/-- The checks of `BUILDC` read the sources only, so both states take the same branch. -/
theorem buildc_sameEffect {rd ra rb rc : Reg} (h : SameSources (.buildc rd ra rb rc) s₁ s₂) :
    SameEffect (.buildc rd ra rb rc) s₁ s₂ := by
  have hs : s₁.readSign ra = s₂.readSign ra := by simp [State.readSign, h.x ra (by simp [Instr.sources])]
  have hm : s₁.readX rb = s₂.readX rb := h.x rb (by simp [Instr.sources])
  have he : s₁.readExponent rc = s₂.readExponent rc := by
    simp [State.readExponent, h.x rc (by simp [Instr.sources])]
  by_cases hr : rangeOk (s₂.readExponent rc) = false
  · exact sameEffect_of_raise (f := .rangeError) rfl (if_pos (he ▸ hr)) (if_pos hr)
  by_cases hi : invariantOk (s₂.readX rb) (s₂.readExponent rc) = false
  · exact sameEffect_of_raise (f := .invariantViolation) rfl
      ((if_neg (he ▸ hr)).trans (if_pos (hm ▸ he ▸ hi))) ((if_neg hr).trans (if_pos hi))
  · exact sameEffect_of_writeResult rfl rfl ((if_neg (he ▸ hr)).trans (if_neg (hm ▸ he ▸ hi)))
      ((if_neg hr).trans (if_neg hi)) (by rw [hs, hm, he])

/-- Each command computes its values from its sources. This is `exec_shape` for two states at a time, with the values the same. -/
theorem exec_sameEffect (h : SameSources i s₁ s₂) : SameEffect i s₁ s₂ := by
  have hx := h.x
  cases i
  case buildc => exact buildc_sameEffect h
  case clr | li | lis => exact sameEffect_of_writeResult rfl rfl rfl rfl rfl
  case ldv => exact sameEffect_of_writeResult rfl rfl rfl rfl (h.din rfl)
  case getc => exact sameEffect_of_writeResult rfl rfl rfl rfl (by rw [h.cf rfl])
  case clc | stc => exact sameEffect_of_writeFlag rfl rfl rfl rfl rfl
  all_goals
    simp only [Instr.sources, List.forall_mem_cons, List.not_mem_nil, false_imp_iff, forall_const, and_true] at hx
  case adc | sbb => exact sameEffect_of_writeResultCF rfl rfl rfl rfl (by rw [hx.1, hx.2, h.cf rfl])
  case putc => exact sameEffect_of_writeFlag rfl rfl rfl rfl (by rw [hx])
  case rdv => exact sameEffect_of_sendData rfl rfl rfl rfl hx
  all_goals
    exact sameEffect_of_writeResult rfl rfl rfl rfl
      (by simp [State.readLo, State.readAmount, State.readSign, State.readExponent, hx])

end SameEffect

theorem exec_effect (i : Instr) (s : State) : ∃ e : Effect, e.Suits i ∧ exec i s = .next (e.apply s) := by
  obtain ⟨e, he, h, -⟩ := exec_sameEffect (i := i) (s₁ := s) (s₂ := s) ⟨fun _ _ => rfl, fun _ => rfl, fun _ => rfl⟩
  exact ⟨e, he, h⟩

end Sys2Proof.Proofs
end

section
/-! PROOFS. The statements about the state of the unit (spec/10_state.md R23, R26, R30 to R32). -/

namespace Sys2Proof.Proofs

open Sys2Proof.Machine

/-- Settles O19: both states take the same effect; on success it writes the destination, and a writer of `CF` sets it. -/
theorem sourcesDetermineTheResult : Obligations.SourcesDetermineTheResult := by
  intro i s₁ s₂ hx hcf hdin
  obtain ⟨e, he, h₁, h₂⟩ := exec_sameEffect ⟨hx, hcf, hdin⟩
  refine ⟨_, _, e.response, h₁, h₂, e.apply_responses _, e.apply_responses _, fun hok rd hd => ?_, fun hw => ?_⟩
  · obtain ⟨⟨_, v⟩, hv, rfl⟩ := Option.map_eq_some_iff.mp ((he.writeOfSuccess hok).trans hd)
    rw [e.readX_apply_written s₁ hv, e.readX_apply_written s₂ hv]
  · obtain ⟨c, hc⟩ := Option.isSome_iff_exists.mp (he.flag.trans hw)
    simp [hc]

/-- Settles O18: presenting one command leaves both ports with the same `din`, and an illegal word is answered alike. -/
theorem resultDependsOnUnitStateOnly : Obligations.ResultDependsOnUnitStateOnly := by
  intro s₁ s₂ c rest₁ rest₂ hx hcf hp₁ hp₂
  cases hd : decode c.cw with
  | error =>
    exact ⟨_, _, ⟨FaultKind.illegalCommand.code, 0⟩, step_illegal hp₁ hd, step_illegal hp₂ hd, hx, hcf, rfl, rfl⟩
  | ok i =>
    have hsame : SameSources i (s₁.accept c rest₁) (s₂.accept c rest₂) :=
      ⟨fun r _ => by simp [State.readX, hx], fun _ => hcf, fun _ => rfl⟩
    obtain ⟨e, -, h₁, h₂⟩ := exec_sameEffect hsame
    exact ⟨_, _, e.response, (step_command hp₁ hd).trans h₁, (step_command hp₂ hd).trans h₂, e.apply_x_congr hx,
      by simp [hcf], e.apply_responses _, e.apply_responses _⟩

/-- R32: the writers of `CF`. -/
theorem writesCF_iff (i : Instr) : i.writesCF = true ↔
    (∃ rd ra rb, i = .adc rd ra rb) ∨ (∃ rd ra rb, i = .sbb rd ra rb) ∨ i = .clc ∨ i = .stc ∨ ∃ ra, i = .putc ra := by
  cases i <;> simp [Instr.writesCF]

/-- Settles O20: an effect that suits the command changes nothing else. -/
theorem frameOfEveryCommand : Obligations.FrameOfEveryCommand := by
  intro i s t ht
  obtain ⟨e, he, h⟩ := exec_effect i s
  obtain rfl : e.apply s = t := Host.Outcome.next.inj (h.symm.trans ht)
  refine ⟨fun r hr => ?_, fun hadc hsbb hclc hstc hputc => ?_, ⟨e.response, e.apply_responses s⟩,
    e.apply_pending s, e.apply_din s⟩
  · exact e.readX_apply_unwritten s fun w hw heq => hr (heq ▸ he.write w hw)
  · have hw : ¬ i.writesCF = true := by simp [writesCF_iff, hadc, hsbb, hclc, hstc, hputc]
    have hflag : e.flag = none := by simpa [← he.flag] using hw
    simp [hflag]

/-- Settles O12: `State.reset` is the state in which a reset event would leave it. -/
theorem resetStateIsAllZero : Obligations.ResetStateIsAllZero := ⟨fun r => readX_resetUnit State.reset r, rfl⟩

end Sys2Proof.Proofs
end

section
/-! PROOFS. The command port (spec/20_memory.md R40, R46, spec/60_exceptions.md R255): what handling one presented event does to what
waits and to what was answered. The statements about a step and about a whole run follow from it. -/

namespace Sys2Proof.Proofs

open Sys2Proof.Machine

/-! ### Well-formed responses -/

theorem responseWf_of_success (v : Word) : responseWf ⟨0, v⟩ = true := rfl

theorem responseWf_of_no_data (status : BitVec 2) : responseWf ⟨status, 0⟩ = true := by simp [responseWf]

theorem inv_of_responses_append {s t : State} {rs : List Response} (h : t.responses = s.responses ++ rs) (hs : s.Inv)
    (hrs : ∀ r ∈ rs, responseWf r = true) : t.Inv := by
  intro r hr
  rw [h, List.mem_append] at hr
  exact hr.elim (hs r) (hrs r)

/-! ### One event -/

/-- From s to t an event was handled: `rest` waits afterwards, and the well-formed responses rs were added. -/
structure Handled (s t : State) (rest : List HostEvent) (rs : List Response) : Prop where
  pending : t.pending = rest
  responses : t.responses = s.responses ++ rs
  wf : ∀ r ∈ rs, responseWf r = true

theorem Handled.single {s t : State} {rest : List HostEvent} {r : Response} (hp : t.pending = rest)
    (hr : t.responses = s.responses ++ [r]) (hwf : responseWf r = true) : Handled s t rest [r] :=
  ⟨hp, hr, List.forall_mem_singleton.mpr hwf⟩

/-- An accepted command gives one response and takes nothing further. Each of the five ways to end has `dout = 0` or status 0. -/
theorem exec_handled (i : Instr) (s : State) : ∃ t r, exec i s = .next t ∧ Handled s t s.pending [r] := by
  obtain ⟨rd, v, -, -, -, h⟩ | ⟨rd, v, c, -, -, -, h⟩ | ⟨c, -, -, -, h⟩ | ⟨v, -, -, -, h⟩ | ⟨f, -, -, -, h⟩ := exec_shape i s
  · exact ⟨_, _, h.trans (writeResult_next.mpr rfl), .single rfl rfl (responseWf_of_success 0)⟩
  · exact ⟨_, _, h.trans (writeResultCF_next.mpr rfl), .single rfl rfl (responseWf_of_success 0)⟩
  · exact ⟨_, _, h.trans (writeFlag_next.mpr rfl), .single rfl rfl (responseWf_of_success 0)⟩
  · exact ⟨_, _, h.trans (sendData_next.mpr rfl), .single rfl rfl (responseWf_of_success v)⟩
  · exact ⟨_, _, h.trans (raise_next.mpr rfl), .single rfl rfl (responseWf_of_no_data f.code)⟩

/-- A presented command gives one response, whether its word is legal or not. -/
theorem step_command_handled {s : State} {c : Command} {rest : List HostEvent} (hp : s.pending = .command c :: rest) :
    ∃ t r, step s = .next t ∧ Handled s t rest [r] := by
  cases hd : decode c.cw with
  | error e =>
    exact ⟨_, _, (step_illegal hp hd).trans (raise_next.mpr rfl), .single rfl rfl (responseWf_of_no_data _)⟩
  | ok i =>
    obtain ⟨t, r, ht, hpending, hresponses, hwf⟩ := exec_handled i (s.accept c rest)
    exact ⟨t, r, (step_command hp hd).trans ht, hpending, hresponses, hwf⟩

/-- A step handles the first event: a command gives one response, a reset event none. -/
theorem step_handled {s : State} {event : HostEvent} {rest : List HostEvent} (hp : s.pending = event :: rest) :
    ∃ t rs, step s = .next t ∧ Handled s t rest rs ∧ rs.length = commandCount [event] := by
  cases event with
  | reset lost => exact ⟨_, [], step_reset hp, ⟨rfl, (List.append_nil _).symm, by simp⟩, rfl⟩
  | command c =>
    obtain ⟨t, r, ht, hh⟩ := step_command_handled hp
    exact ⟨t, [r], ht, hh, rfl⟩

/-- Settles O15: an idle step adds no response, and every other step adds well-formed ones. -/
theorem stepKeepsResponsesWellFormed : Obligations.StepKeepsResponsesWellFormed := by
  intro s t hs ht
  cases hp : s.pending with
  | nil =>
    obtain rfl : s = t := Host.Outcome.next.inj ((step_idle hp).symm.trans ht)
    exact hs
  | cons event rest =>
    obtain ⟨u, rs, hu, hh, -⟩ := step_handled hp
    obtain rfl : u = t := Host.Outcome.next.inj (hu.symm.trans ht)
    exact inv_of_responses_append hh.responses hs hh.wf

/-- Settles O16: nothing has been answered after reset. -/
theorem resetResponsesAreWellFormed : Obligations.ResetResponsesAreWellFormed := by
  intro r hr
  exact absurd hr List.not_mem_nil

/-- Settles O9: `State.accept` is what the statement writes out. -/
theorem stepRunsTheDecodedCommand : Obligations.StepRunsTheDecodedCommand :=
  fun _ _ _ _ hp hd => step_command hp hd

/-! ### All the waiting events -/

theorem run_succ_of_step {M : Host.Core} {s t : M.State} (k : Nat) (h : M.step s = .next t) :
    M.run (k + 1) s = M.run k t := by
  rw [Host.Core.run, h]

theorem commandCount_cons (event : HostEvent) (rest : List HostEvent) :
    commandCount (event :: rest) = commandCount [event] + commandCount rest := by
  cases event <;> simp [commandCount, Nat.add_comm]

/-- The statement of O14 for a given list of waiting events, on which the induction goes. -/
theorem run_handles_all (events : List HostEvent) (s : State) (hp : s.pending = events) :
    ∃ t rs, Sys2Proof.core.run events.length s = .next t ∧ t.pending = [] ∧ t.responses = s.responses ++ rs ∧
      rs.length = commandCount events := by
  induction events generalizing s with
  | nil => exact ⟨s, [], rfl, hp, (List.append_nil _).symm, rfl⟩
  | cons event rest ih =>
    obtain ⟨u, rs₁, hstep, hh, hlen₁⟩ := step_handled hp
    obtain ⟨t, rs₂, hrun, hdone, hresp, hlen₂⟩ := ih u hh.pending
    refine ⟨t, rs₁ ++ rs₂, (run_succ_of_step _ hstep).trans hrun, hdone, ?_, ?_⟩
    · rw [hresp, hh.responses, List.append_assoc]
    · rw [List.length_append, hlen₁, hlen₂, ← commandCount_cons]

/-- Settles O14, by induction on the waiting events: one step handles the first of them. -/
theorem everyPresentedCommandGetsOneResponse : Obligations.EveryPresentedCommandGetsOneResponse := by
  intro s
  obtain ⟨t, rs, hrun, hdone, hresp, hlen⟩ := run_handles_all s.pending s rfl
  exact ⟨t, hrun, hdone, rs, hresp, hlen⟩

end Sys2Proof.Proofs
end

section
/-! PROOFS. The words of the commands (spec/30_encoding.md R51, R52, R55): a word as a number, and the decoder and the encoder as
inverses of each other. -/

namespace Sys2Proof.Proofs

open Sys2Proof.Claims

/-! ### Words as numbers -/

theorem toNat_append_eq_add {m n : Nat} (x : BitVec m) (y : BitVec n) : (x ++ y).toNat = x.toNat * 2 ^ n + y.toNat := by
  rw [BitVec.toNat_append, ← Nat.shiftLeft_add_eq_or_of_lt y.isLt, Nat.shiftLeft_eq]

theorem toNat_opcodeOf (w : CommandWord) : (opcodeOf w).toNat = w.toNat / 2 ^ 24 := by
  have := w.isLt
  rw [opcodeOf, BitVec.extractLsb'_toNat, Nat.shiftRight_eq_div_pow]
  omega

theorem toNat_wordR (op : BitVec 8) (rd ra rb rc : BitVec 4) : (wordR op rd ra rb rc).toNat
    = op.toNat * 2 ^ 24 + rd.toNat * 2 ^ 20 + ra.toNat * 2 ^ 16 + rb.toNat * 2 ^ 12 + rc.toNat * 2 ^ 8 := by
  refine (toNat_append_eq_add (op ++ rd ++ ra ++ rb ++ rc) 0#8).trans ?_
  simp only [toNat_append_eq_add, BitVec.toNat_ofNat]
  omega

theorem toNat_wordI (op : BitVec 8) (rd : BitVec 4) (imm : Imm16) :
    (wordI op rd imm).toNat = op.toNat * 2 ^ 24 + rd.toNat * 2 ^ 20 + imm.toNat := by
  refine (toNat_append_eq_add (op ++ rd ++ 0#4) imm).trans ?_
  simp only [toNat_append_eq_add, BitVec.toNat_ofNat]
  omega

/-- Settles O5: extracting a field divides by its place, and appending a field multiplies by it. -/
theorem wordIsTheSumOfItsFields : Obligations.WordIsTheSumOfItsFields := by
  refine ⟨fun w => ⟨toNat_opcodeOf w, ?_⟩, toNat_wordR, toNat_wordI⟩
  simp [rdOf, raOf, rbOf, rcOf, zero8Of, imm16Of, Nat.shiftRight_eq_div_pow]

/-! ### What the decoder does with an opcode -/

section Decode

variable {w : CommandWord} {i : Instr} {f : Form}

theorem decode_assigned (hf : formOf (opcodeOf w) = some f) : decode w = f.read w := by
  rw [decode, hf]

theorem decode_unassigned (hf : formOf (opcodeOf w) = none) : decode w = .error .unassignedOpcode := by
  rw [decode, hf]

theorem decode_eq_ok_iff : decode w = .ok i ↔ ∃ f, formOf (opcodeOf w) = some f ∧ f.read w = .ok i := by
  cases hf : formOf (opcodeOf w) with
  | none => simp [decode_unassigned hf]
  | some f => simp [decode_assigned hf]

/-- A form reads no bit that the encoder does not write again. -/
theorem encode_of_read (hf : formOf (opcodeOf w) = some f) (hr : f.read w = .ok i) : encode i = w := by
  cases f with
  | plain j =>
    obtain ⟨hw, rfl⟩ := read_plain hr
    exact (encode_plain hf).trans hw.symm
  | rd mk =>
    obtain ⟨d, hw, rfl⟩ := read_rd hr
    exact (encode_rd hf d).trans hw.symm
  | ra mk =>
    obtain ⟨a, hw, rfl⟩ := read_ra hr
    exact (encode_ra hf a).trans hw.symm
  | rdRa mk =>
    obtain ⟨d, a, hw, rfl⟩ := read_rdRa hr
    exact (encode_rdRa hf d a).trans hw.symm
  | rdRaRb mk =>
    obtain ⟨d, a, b, hw, rfl⟩ := read_rdRaRb hr
    exact (encode_rdRaRb hf d a b).trans hw.symm
  | rdRaRbRc mk =>
    obtain ⟨d, a, b, c, hw, rfl⟩ := read_rdRaRbRc hr
    exact (encode_rdRaRbRc hf d a b c).trans hw.symm
  | rdImm mk =>
    obtain ⟨d, imm, hw, rfl⟩ := read_rdImm hr
    exact (encode_rdImm hf d imm).trans hw.symm

/-- Settles O2: one case per form, in which the unused fields were found to be zero. -/
theorem encodeOfDecodeIsTheWord : Obligations.EncodeOfDecodeIsTheWord := by
  intro w i hd
  obtain ⟨f, hf, hr⟩ := decode_eq_ok_iff.mp hd
  exact encode_of_read hf hr

end Decode

/-! ### Decoding a built word, form by form -/

section DecodeBuilt

variable {op : BitVec 8}

@[simp] theorem opcodeOf_wordR (d a b c : BitVec 4) : opcodeOf (wordR op d a b c) = op := by
  rw [wordR_eq_word6, opcodeOf_word6]

theorem decode_plain {i : Instr} (hf : formOf op = some (.plain i)) : decode (wordR op 0 0 0 0) = .ok i := by
  rw [decode_assigned (by simpa using hf)]
  simp [Form.read, wordR_eq_word6]

theorem decode_rd {mk : Reg → Instr} (hf : formOf op = some (.rd mk)) (d : Reg) :
    decode (wordR op (regBits d) 0 0 0) = .ok (mk d) := by
  rw [decode_assigned (by simpa using hf)]
  simp [Form.read, wordR_eq_word6]

theorem decode_ra {mk : Reg → Instr} (hf : formOf op = some (.ra mk)) (a : Reg) :
    decode (wordR op 0 (regBits a) 0 0) = .ok (mk a) := by
  rw [decode_assigned (by simpa using hf)]
  simp [Form.read, wordR_eq_word6]

theorem decode_rdRa {mk : Reg → Reg → Instr} (hf : formOf op = some (.rdRa mk)) (d a : Reg) :
    decode (wordRdRa op d a) = .ok (mk d a) := by
  rw [wordRdRa, decode_assigned (by simpa using hf)]
  simp [Form.read, wordR_eq_word6]

theorem decode_rdRaRb {mk : Reg → Reg → Reg → Instr} (hf : formOf op = some (.rdRaRb mk)) (d a b : Reg) :
    decode (wordRdRaRb op d a b) = .ok (mk d a b) := by
  rw [wordRdRaRb, decode_assigned (by simpa using hf)]
  simp [Form.read, wordR_eq_word6]

theorem decode_rdRaRbRc {mk : Reg → Reg → Reg → Reg → Instr} (hf : formOf op = some (.rdRaRbRc mk))
    (d a b c : Reg) : decode (wordRdRaRbRc op d a b c) = .ok (mk d a b c) := by
  rw [wordRdRaRbRc, decode_assigned (by simpa using hf)]
  simp [Form.read, wordR_eq_word6]

theorem decode_rdImm {mk : Reg → Imm16 → Instr} (hf : formOf op = some (.rdImm mk)) (d : Reg) (imm : Imm16) :
    decode (wordI op (regBits d) imm) = .ok (mk d imm) := by
  have hra : raOf (wordI op (regBits d) imm) = 0 := by rw [wordI_eq_word6, raOf_word6]
  have hrd : rdOf (wordI op (regBits d) imm) = regBits d := by rw [wordI_eq_word6, rdOf_word6]
  rw [decode_assigned (by rwa [wordI_eq_word6, opcodeOf_word6]), Form.read, if_pos hra, hrd, imm16Of_wordI, regOf_regBits]

end DecodeBuilt

/-- Settles O1: the encoder gives each command a word of the form that the opcode map has for its opcode. -/
theorem decodeOfEncodeIsTheCommand : Obligations.DecodeOfEncodeIsTheCommand := by
  intro i
  cases i
  case clc | stc => exact decode_plain rfl
  case getc | clr | ldv => exact decode_rd rfl _
  case putc | rdv => exact decode_ra rfl _
  case li | lis => exact decode_rdImm rfl _ _
  case build | buildc => exact decode_rdRaRbRc rfl _ _ _ _
  case clz32 | clz64 | ctz32 | ctz64 | popcnt32 | popcnt64 | neg | not | abs | iszero | mov | sign | ghi | glo | shi | slo
      | fsign | fmant | fexp | fexc | fnrm =>
    exact decode_rdRa rfl _ _
  all_goals exact decode_rdRaRb rfl _ _ _

end Sys2Proof.Proofs
end

section
/-! PROOFS. The decoder against the mask and match columns (spec/30_encoding.md R52, R55, R57): the legal words are the words that
fit a row, and every other word is answered with IllegalCommand. -/

namespace Sys2Proof.Proofs

open Sys2Proof.Machine Sys2Proof.Claims

/-! ### The row of a form -/

/-- A 1 at every opcode bit and at every bit of a field that the form does not use (R52). -/
def maskOf : Form → CommandWord
  | .plain _ => word6 0xFF 0xF 0xF 0xF 0xF 0xFF
  | .rd _ => word6 0xFF 0 0xF 0xF 0xF 0xFF
  | .ra _ => word6 0xFF 0xF 0 0xF 0xF 0xFF
  | .rdRa _ => word6 0xFF 0 0 0xF 0xF 0xFF
  | .rdRaRb _ => word6 0xFF 0 0 0 0xF 0xFF
  | .rdRaRbRc _ => word6 0xFF 0 0 0 0 0xFF
  | .rdImm _ => word6 0xFF 0 0xF 0 0 0

/-- The command that the used fields of a word make, whatever its unused bits are. -/
def commandOf (f : Form) (w : CommandWord) : Instr :=
  match f with
  | .plain i => i
  | .rd mk => mk (regOf (rdOf w))
  | .ra mk => mk (regOf (raOf w))
  | .rdRa mk => mk (regOf (rdOf w)) (regOf (raOf w))
  | .rdRaRb mk => mk (regOf (rdOf w)) (regOf (raOf w)) (regOf (rbOf w))
  | .rdRaRbRc mk => mk (regOf (rdOf w)) (regOf (raOf w)) (regOf (rbOf w)) (regOf (rcOf w))
  | .rdImm mk => mk (regOf (rdOf w)) (imm16Of w)

/-- The row of R55 for an opcode with this form. -/
def rowOf (op : BitVec 8) (f : Form) : OpcodeRow := ⟨(commandOf f 0).mnemonic, word6 op 0 0 0 0 0, maskOf f⟩

/-- The opcode map holds no rows but those of the decoder's forms. -/
theorem row_eq_rowOf : ∀ r ∈ opcodeMap, (formOf (opcodeOf r.matchWord)).map (rowOf (opcodeOf r.matchWord)) = some r := by
  decide

theorem exists_form_of_row {r : OpcodeRow} (hr : r ∈ opcodeMap) : ∃ op f, formOf op = some f ∧ r = rowOf op f := by
  obtain ⟨f, hf, hrow⟩ := Option.map_eq_some_iff.mp (row_eq_rowOf r hr)
  exact ⟨_, f, hf, hrow.symm⟩

/-! ### Reading through the mask -/

theorem exists_word6 (w : CommandWord) : ∃ op d a b c z, w = word6 op d a b c z :=
  ⟨_, _, _, _, _, _, (word6_fields w).symm⟩

theorem and_ones8 (v : BitVec 8) : v &&& 255#8 = v := BitVec.and_allOnes

theorem and_ones4 (v : BitVec 4) : v &&& 15#4 = v := BitVec.and_allOnes

theorem opcodeOf_and_maskOf (f : Form) (w : CommandWord) : opcodeOf (w &&& maskOf f) = opcodeOf w := by
  obtain ⟨op, d, a, b, c, z, rfl⟩ := exists_word6 w
  cases f <;> simp [maskOf, word6_and, and_ones8]

/-- What a form does, said once: it checks the masked bits, then reads the fields. -/
theorem read_eq_ite (f : Form) (w : CommandWord) :
    f.read w = if w &&& maskOf f = word6 (opcodeOf w) 0 0 0 0 0 then .ok (commandOf f w) else .error .nonzeroUnused := by
  obtain ⟨op, d, a, b, c, z, rfl⟩ := exists_word6 w
  cases f <;> simp [Form.read, maskOf, commandOf, word6_and, word6_inj, and_ones8, and_ones4]

/-- The mnemonic belongs to the opcode and not to the operands. -/
theorem mnemonic_commandOf {op : BitVec 8} {f : Form} (hf : formOf op = some f) (v w : CommandWord) :
    (commandOf f v).mnemonic = (commandOf f w).mnemonic := by
  unfold formOf at hf; split at hf <;> cases hf <;> rfl

/-! ### Words that fit a row -/

section Fits

variable {w : CommandWord}

theorem decode_of_fits {r : OpcodeRow} (hr : r ∈ opcodeMap) (hw : w &&& r.mask = r.matchWord) :
    ∃ i, decode w = .ok i ∧ i.mnemonic = r.mnemonic := by
  obtain ⟨op, f, hf, rfl⟩ := exists_form_of_row hr
  change w &&& maskOf f = word6 op 0 0 0 0 0 at hw
  obtain rfl : opcodeOf w = op := by rw [← opcodeOf_and_maskOf f w, hw, opcodeOf_word6]
  refine ⟨commandOf f w, ?_, mnemonic_commandOf hf w 0⟩
  rw [decode_assigned hf, read_eq_ite, if_pos hw]

theorem fits_of_decode {i : Instr} (hd : decode w = .ok i) :
    ∃ r ∈ opcodeMap, r.mnemonic = i.mnemonic ∧ w &&& r.mask = r.matchWord := by
  obtain ⟨r, hr, hname, hfits⟩ := Laws.encodesLegal i
  rw [encodeOfDecodeIsTheWord w i hd] at hfits
  exact ⟨r, hr, hname, beq_iff_eq.mp hfits⟩

theorem noRowFits_iff : NoRowFits w ↔ ∃ e, decode w = .error e := by
  constructor
  · intro hw
    cases hd : decode w with
    | error e => exact ⟨e, rfl⟩
    | ok i =>
      obtain ⟨r, hr, -, hfits⟩ := fits_of_decode hd
      exact absurd hfits (hw r hr)
  · rintro ⟨e, hd⟩ r hr hfits
    obtain ⟨i, hi, -⟩ := decode_of_fits hr hfits
    rw [hd] at hi
    cases hi

/-- Nothing of the unit changes, and the response is that of IllegalCommand (R251, R259). -/
theorem step_answers_noRowFits (hw : NoRowFits w) (s : State) (din : Word) (rest : List HostEvent)
    (hp : s.pending = .command ⟨w, din⟩ :: rest) : ∃ t, step s = .next t ∧ AnswersOnly s t 1 0 := by
  obtain ⟨e, hd⟩ := noRowFits_iff.mp hw
  exact ⟨_, (step_illegal hp hd).trans (raise_next.mpr rfl), fun _ => rfl, rfl, rfl⟩

end Fits

/-- Settles O3: a form's check is its row's mask and match. -/
theorem legalWordsAreThoseOfTheOpcodeMap : Obligations.LegalWordsAreThoseOfTheOpcodeMap :=
  fun _ => ⟨fun _ => fits_of_decode, fun _ => decode_of_fits, step_answers_noRowFits⟩

/-! ### The unassigned opcodes (R57 (a)) -/

/-- Four ranges of 64, since the whole of it is too deep for one evaluation. -/
theorem count_unassigned : ((List.range 256).filter unassigned).length = 197 := by
  rw [show 256 = 64 + 64 + 64 + 64 from rfl]
  simp only [List.range_add, List.filter_append, List.length_append]
  decide

theorem unassigned_eq_false_of_form {op : BitVec 8} {f : Form} (hf : formOf op = some f) : unassigned op.toNat = false := by
  unfold formOf at hf; split at hf <;> cases hf <;> rfl

/-- An opcode that differs from all 59 lies in one of the ranges of R57 (a). -/
theorem exists_form_of_assigned {op : BitVec 8} (h : unassigned op.toNat = false) : ∃ f, formOf op = some f := by
  unfold formOf
  split
  case h_60 =>
    simp only [unassigned, Bool.or_eq_false_iff, Bool.and_eq_false_iff, decide_eq_false_iff_not, beq_eq_false_iff_ne,
      ← BitVec.toNat_inj, BitVec.toNat_ofNat] at *
    grind
  all_goals exact ⟨_, rfl⟩

theorem decode_unassigned_of_toNat {w : CommandWord} (h : unassigned (w.toNat / 2 ^ 24) = true) :
    decode w = .error .unassignedOpcode := by
  rw [← toNat_opcodeOf] at h
  cases hf : formOf (opcodeOf w) with
  | none => exact decode_unassigned hf
  | some f =>
    rw [unassigned_eq_false_of_form hf] at h
    cases h

/-- A listed opcode has a form, and a form rejects a word only for its unused bits. -/
theorem decode_nonzeroUnused {w : CommandWord} (h : unassigned (w.toNat / 2 ^ 24) = false) (hw : NoRowFits w) :
    decode w = .error .nonzeroUnused := by
  rw [← toNat_opcodeOf] at h
  obtain ⟨f, hf⟩ := exists_form_of_assigned h
  obtain ⟨e, hd⟩ := noRowFits_iff.mp hw
  rw [decode_assigned hf, read_eq_ite] at hd ⊢
  split_ifs at hd ⊢
  rfl

/-- Settles O4: a word that fits no row does not decode, and its opcode says which of the two ways it is illegal in. -/
theorem illegalWordsRaiseIllegalCommand : Obligations.IllegalWordsRaiseIllegalCommand := by
  refine ⟨count_unassigned, fun w h => ?_, fun w => decode_nonzeroUnused, ?_, ?_, fun w s din rest hw => ?_⟩
  · have hd := decode_unassigned_of_toNat h
    exact ⟨noRowFits_iff.mpr ⟨_, hd⟩, hd⟩
  · exact noRowFits_iff.mpr ⟨_, decode_unassigned_of_toNat rfl⟩
  · exact noRowFits_iff.mpr ⟨_, decode_unassigned_of_toNat rfl⟩
  · exact step_answers_noRowFits hw s din rest

end Sys2Proof.Proofs
end

section
/-! PROOFS. The assembler (spec/30_encoding.md R59, R60): what each form of line assembles to, and from that the lines of the commands
and the pseudo-instructions. -/

namespace Sys2Proof.Proofs

open Sys2Proof.Machine

/-! ### Names -/

/-- The opcode map lists each name once. None of the names is one of the source's (R60 (b)) or `SPLIT`. -/
theorem row_name : ∀ r ∈ opcodeMap, opcodeNamed r.mnemonic = some (opcodeOf r.matchWord) ∧
    r.mnemonic ≠ "SPLIT" ∧ realName r.mnemonic = r.mnemonic := by
  decide

theorem assembleLine_of_ne_split {name : String} (h : name ≠ "SPLIT") (operands : List Operand) :
    assembleLine ⟨name, operands⟩ = (assembleReal (realName name) operands).map ([·]) := by
  simp [assembleLine, h]

/-- A name of R55 stands for itself. -/
theorem assembleLine_of_named {name : String} {f : Form} (h : (opcodeNamed name).bind formOf = some f)
    (operands : List Operand) : assembleLine ⟨name, operands⟩ = (assembleReal name operands).map ([·]) := by
  obtain ⟨op, hop, -⟩ := Option.bind_eq_some_iff.mp h
  obtain ⟨r, hfind, -⟩ := Option.map_eq_some_iff.mp hop
  obtain rfl : r.mnemonic = name := by simpa using List.find?_some hfind
  obtain ⟨-, hsplit, hreal⟩ := row_name r (List.mem_of_find?_eq_some hfind)
  rw [assembleLine_of_ne_split hsplit, hreal]

/-! ### The operands of each form -/

section Forms

variable {name : String}

theorem assembleReal_plain {i : Instr} (h : (opcodeNamed name).bind formOf = some (.plain i)) :
    assembleReal name [] = some (plainCommand i) := by
  simp [assembleReal, h]

theorem assembleReal_rd {mk : Reg → Instr} (h : (opcodeNamed name).bind formOf = some (.rd mk)) (hname : name ≠ "LDV")
    (d : Reg) : assembleReal name [.reg d] = some (plainCommand (mk d)) := by
  simp [assembleReal, h, hname]

theorem assembleReal_ldv (d : Reg) (v : Word) :
    assembleReal "LDV" [.reg d, .data v.toNat] = some ⟨encode (.ldv d), v⟩ := by
  have h : (opcodeNamed "LDV").bind formOf = some (.rd .ldv) := rfl
  simp [assembleReal, h, v.isLt]

theorem assembleReal_ra {mk : Reg → Instr} (h : (opcodeNamed name).bind formOf = some (.ra mk)) (a : Reg) :
    assembleReal name [.reg a] = some (plainCommand (mk a)) := by
  simp [assembleReal, h]

theorem assembleReal_rdRa {mk : Reg → Reg → Instr} (h : (opcodeNamed name).bind formOf = some (.rdRa mk)) (d a : Reg) :
    assembleReal name [.reg d, .reg a] = some (plainCommand (mk d a)) := by
  simp [assembleReal, h]

theorem assembleReal_rdRa_inPlace {mk : Reg → Reg → Instr} (h : (opcodeNamed name).bind formOf = some (.rdRa mk))
    (hshi : name ≠ "SHI") (hslo : name ≠ "SLO") (d : Reg) :
    assembleReal name [.reg d] = some (plainCommand (mk d d)) := by
  simp [assembleReal, h, hshi, hslo]

theorem assembleReal_rdRaRb {mk : Reg → Reg → Reg → Instr} (h : (opcodeNamed name).bind formOf = some (.rdRaRb mk))
    (d a b : Reg) : assembleReal name [.reg d, .reg a, .reg b] = some (plainCommand (mk d a b)) := by
  simp [assembleReal, h]

theorem assembleReal_rdRaRb_inPlace {mk : Reg → Reg → Reg → Instr}
    (h : (opcodeNamed name).bind formOf = some (.rdRaRb mk)) (d b : Reg) :
    assembleReal name [.reg d, .reg b] = some (plainCommand (mk d d b)) := by
  simp [assembleReal, h]

theorem assembleReal_rdRaRbRc {mk : Reg → Reg → Reg → Reg → Instr}
    (h : (opcodeNamed name).bind formOf = some (.rdRaRbRc mk)) (d a b c : Reg) :
    assembleReal name [.reg d, .reg a, .reg b, .reg c] = some (plainCommand (mk d a b c)) := by
  simp [assembleReal, h]

end Forms

/-! ### The immediates (R59) -/

theorem unsignedImm_toNat (imm : Imm16) : unsignedImm imm.toNat = some imm := by
  have := imm.isLt
  rw [unsignedImm, if_pos (by omega), BitVec.ofInt_natCast, BitVec.ofNat_toNat, BitVec.setWidth_eq]

theorem signedImm_toInt (imm : Imm16) : signedImm imm.toInt = some imm := by
  have hlow := imm.le_toInt
  have hhigh := imm.toInt_lt
  rw [signedImm, if_pos (by omega), BitVec.ofInt_toInt]

theorem assembleReal_li (d : Reg) (imm : Imm16) :
    assembleReal "LI" [.reg d, .imm imm.toNat] = some (plainCommand (.li d imm)) := by
  have h : (opcodeNamed "LI").bind formOf = some (.rdImm .li) := rfl
  simp [assembleReal, h, unsignedImm_toNat]

theorem assembleReal_lis (d : Reg) (imm : Imm16) :
    assembleReal "LIS" [.reg d, .imm imm.toInt] = some (plainCommand (.lis d imm)) := by
  have h : (opcodeNamed "LIS").bind formOf = some (.rdImm .lis) := rfl
  simp [assembleReal, h, signedImm_toInt]

/-! ### The statements -/

theorem mnemonic_named (i : Instr) : ∃ f, (opcodeNamed i.mnemonic).bind formOf = some f := by
  cases i <;> exact ⟨_, rfl⟩

/-- The operands of R59 are those that the command's form takes. -/
theorem assembleReal_operandsOfInstr (i : Instr) (din : Word) :
    assembleReal i.mnemonic (operandsOfInstr i din) = some ⟨encode i, if i.readsDin then din else 0⟩ := by
  cases i
  case ldv d => exact assembleReal_ldv d din
  case li d imm => exact assembleReal_li d imm
  case lis d imm => exact assembleReal_lis d imm
  case clc | stc => exact assembleReal_plain rfl
  case getc | clr => exact assembleReal_rd rfl (by simp [Instr.mnemonic]) _
  case putc | rdv => exact assembleReal_ra rfl _
  case build | buildc => exact assembleReal_rdRaRbRc rfl _ _ _ _
  case clz32 | clz64 | ctz32 | ctz64 | popcnt32 | popcnt64 | neg | not | abs | iszero | mov | sign | ghi | glo | shi | slo
      | fsign | fmant | fexp | fexc | fnrm =>
    exact assembleReal_rdRa rfl _ _
  all_goals exact assembleReal_rdRaRb rfl _ _ _

/-- Settles O7: a mnemonic stands for itself, and its operands are those of R59. -/
theorem lineOfACommandAssemblesToItsWord : Obligations.LineOfACommandAssemblesToItsWord := by
  intro i din
  obtain ⟨f, hf⟩ := mnemonic_named i
  rw [lineOf, assembleLine_of_named hf, assembleReal_operandsOfInstr, Option.map_some]

/-- R60 (b): the source's name and the command's own are looked up as one and the same name. -/
theorem realName_of_aliasNames : ∀ p ∈ aliasNames, p.1 ≠ "SPLIT" ∧ p.2 ≠ "SPLIT" ∧ realName p.1 = realName p.2 := by
  decide

theorem splitWf_iff {xs xm xe xa : Reg} : splitWf xs xm xe xa = true ↔ ¬ (xa = xs ∨ xa = xm ∨ xa = xe) := by
  simp [splitWf, and_assoc]

/-- Settles O8: an in-place form assembles to the command of its full form, and a source's name to what the command's own name
does; `SPLIT` is its own case. -/
theorem pseudoInstructionsRewrite : Obligations.PseudoInstructionsRewrite := by
  refine ⟨fun name mk d b h => ?_, fun name mk d h hshi hslo => ?_, fun d => ⟨rfl, rfl⟩, fun p hp operands => ?_,
    fun xs xm xe xf xa => ?_⟩
  · simp only [assembleLine_of_named h, assembleReal_rdRaRb_inPlace h, assembleReal_rdRaRb h]
  · simp only [assembleLine_of_named h, assembleReal_rdRa_inPlace h hshi hslo, assembleReal_rdRa h]
  · obtain ⟨h₁, h₂, hreal⟩ := realName_of_aliasNames p hp
    rw [assembleLine_of_ne_split h₁, assembleLine_of_ne_split h₂, hreal]
  · change expandSplit xs xm xe xf xa = _
    simp only [expandSplit, splitWf_iff, ite_not, plainCommand]
    rfl

end Sys2Proof.Proofs
end

section
/-! PROOFS. What the statements of the instruction families ask of every command: which word a command has (spec/30_encoding.md
R51), and when a command has completed with its one write (spec/10_state.md R23). -/

namespace Sys2Proof.Proofs

open Sys2Proof.Machine Sys2Proof.Claims

/-! ### Words -/

/-- The decoder inverts the encoder (R51, R55). -/
theorem decode_eq_ok_iff_encode {w : CommandWord} {i : Instr} : decode w = .ok i ↔ encode i = w :=
  ⟨encodeOfDecodeIsTheWord w i, fun h => h ▸ decodeOfEncodeIsTheCommand i⟩

/-- R51's sum is the word with those fields. -/
theorem cwR_eq_wordR (op : BitVec 8) (d a b c : Reg) :
    cwR op.toNat d a b c = wordR op (regBits d) (regBits a) (regBits b) (regBits c) := by
  have hsum := toNat_wordR op (regBits d) (regBits a) (regBits b) (regBits c)
  exact (congrArg (BitVec.ofNat 32) hsum.symm).trans (by simp)

theorem decode_cwR {i : Instr} (op : BitVec 8) (d a b c : Reg)
    (h : encode i = wordR op (regBits d) (regBits a) (regBits b) (regBits c)) :
    decode (cwR op.toNat d a b c) = .ok i :=
  decode_eq_ok_iff_encode.mpr (h.trans (cwR_eq_wordR op d a b c).symm)

/-- Settles O6: each of the words is the one that the encoder gives its command. -/
theorem exampleWordsDecode : Obligations.ExampleWordsDecode := by
  unfold Obligations.ExampleWordsDecode
  simp only [decode_eq_ok_iff_encode]
  decide

/-! ### Completion -/

/-- The low half that the statements speak of is the operand of the 32-bit commands. -/
theorem low_eq_readLo (s : State) (r : Reg) : low s r = s.readLo r := BitVec.setWidth_eq_extractLsb' (by decide)

/-- A command that ends by `writeResult` has changed nothing else (R23). -/
theorem completes_of_writeResult {i : Instr} {s : State} {rd : Reg} {v : Word} (h : exec i s = writeResult rd v s) :
    Completes i s rd v :=
  ⟨_, h.trans (writeResult_next.mpr rfl), by simp, fun _ hr => by simp [hr], by simp, by simp⟩

end Sys2Proof.Proofs
end

section
/-! PROOFS. The statements about the bit primitives (spec/40_bit_primitives.md R80 to R90). -/

namespace Sys2Proof.Proofs

open Sys2Proof.Machine Sys2Proof.Claims

/-! ### The functions and the rules' own words -/

section Rules

variable {w : Nat} {v : BitVec w} {m n : Nat}

theorem leadingZeros_clz (v : BitVec w) : LeadingZeros v (clz v) := by
  obtain ⟨hn, hv⟩ | ⟨hlt, hbit, habove⟩ := clz_cases v
  · exact .inl ⟨hv, hn⟩
  · exact .inr ⟨w - 1 - clz v, by omega, hbit, habove, by omega⟩

theorem trailingZeros_ctz (v : BitVec w) : TrailingZeros v (ctz v) :=
  (ctz_cases v).imp And.symm id

/-- Of two highest set bits neither lies above the other. -/
theorem leadingZeros_unique (hm : LeadingZeros v m) (hn : LeadingZeros v n) : m = n := by
  obtain ⟨hv, rfl⟩ | ⟨h, hw, hbit, habove, rfl⟩ := hm <;> obtain ⟨hv', rfl⟩ | ⟨k, kw, kbit, kabove, rfl⟩ := hn
  · rfl
  · simp [hv] at kbit
  · simp [hv'] at hbit
  · have hle : ¬ k < h := fun hlt => by simp [kabove h hlt hw] at hbit
    have hge : ¬ h < k := fun hlt => by simp [habove k hlt kw] at kbit
    omega

/-- Of two lowest set bits neither lies below the other. -/
theorem trailingZeros_unique (hm : TrailingZeros v m) (hn : TrailingZeros v n) : m = n := by
  obtain ⟨hv, rfl⟩ | ⟨-, mbit, mbelow⟩ := hm <;> obtain ⟨hv', rfl⟩ | ⟨-, nbit, nbelow⟩ := hn
  · rfl
  · simp [hv] at nbit
  · simp [hv'] at mbit
  · have hge : ¬ m < n := fun hlt => by simp [nbelow m hlt] at mbit
    have hle : ¬ n < m := fun hlt => by simp [mbelow n hlt] at nbit
    omega

theorem clz_eq_iff : clz v = n ↔ LeadingZeros v n :=
  ⟨fun h => h ▸ leadingZeros_clz v, leadingZeros_unique (leadingZeros_clz v)⟩

theorem ctz_eq_iff : ctz v = n ↔ TrailingZeros v n :=
  ⟨fun h => h ▸ trailingZeros_ctz v, trailingZeros_unique (trailingZeros_ctz v)⟩

theorem popcnt_eq_bitSum (v : BitVec w) : popcnt v = bitSum v := popcnt_eq_sum v

end Rules

/-! ### The commands -/

/-- R84: the 7 bits of the result hold the count of any register or half. -/
theorem completes_of_count {i : Instr} {s : State} {rd : Reg} {n : Nat} (hn : n ≤ 64)
    (h : exec i s = writeResult rd (countWord n) s) : Completes i s rd (BitVec.ofNat 64 n) :=
  countWord_eq hn ▸ completes_of_writeResult h

/-- Settles O22: `clz` counts as R80 says, and the commands write it. -/
theorem countLeadingZeros : Obligations.CountLeadingZeros := by
  refine ⟨fun _ => leadingZeros_clz, fun rd ra s => ⟨⟨decode_cwR 0x10 rd ra 0 0 rfl, _, leadingZeros_clz _, ?_⟩,
    decode_cwR 0x11 rd ra 0 0 rfl, _, leadingZeros_clz _, ?_⟩⟩
  · exact completes_of_count ((clz_le _).trans (by decide)) (by rw [low_eq_readLo]; rfl)
  · exact completes_of_count (clz_le _) rfl

/-- Settles O23: `ctz` counts as R81 says, and the commands write it. -/
theorem countTrailingZeros : Obligations.CountTrailingZeros := by
  refine ⟨fun _ => trailingZeros_ctz, fun rd ra s => ⟨⟨decode_cwR 0x12 rd ra 0 0 rfl, _, trailingZeros_ctz _, ?_⟩,
    decode_cwR 0x13 rd ra 0 0 rfl, _, trailingZeros_ctz _, ?_⟩⟩
  · exact completes_of_count ((ctz_le _).trans (by decide)) (by rw [low_eq_readLo]; rfl)
  · exact completes_of_count (ctz_le _) rfl

/-- Settles O24: `popcnt` is R82's sum, and the commands write it. -/
theorem populationCount : Obligations.PopulationCount := by
  refine ⟨fun _ => popcnt_eq_bitSum, fun rd ra s => ⟨⟨decode_cwR 0x14 rd ra 0 0 rfl, ?_⟩,
    decode_cwR 0x15 rd ra 0 0 rfl, ?_⟩⟩
  · rw [← popcnt_eq_bitSum]
    exact completes_of_count ((popcnt_le _).trans (by decide)) (by rw [low_eq_readLo]; rfl)
  · rw [← popcnt_eq_bitSum]
    exact completes_of_count (popcnt_le _) rfl

/-! ### The set bits of a value -/

section SetBits

variable {w : Nat}

/-- The places of the bits that are 1. -/
def setBits (v : BitVec w) : Finset Nat := {i ∈ Finset.range w | v.getLsbD i = true}

variable {v : BitVec w} {i : Nat}

@[simp] theorem mem_setBits : i ∈ setBits v ↔ v.getLsbD i = true := by
  simpa [setBits] using BitVec.lt_of_getLsbD

theorem popcnt_eq_card_setBits (v : BitVec w) : popcnt v = (setBits v).card := by
  rw [popcnt_eq_sum, setBits, Finset.card_filter]
  exact Finset.sum_congr rfl fun i _ => by cases v.getLsbD i <;> rfl

theorem setBits_eq_empty : setBits v = ∅ ↔ v = 0 := by
  constructor
  · intro h
    refine BitVec.eq_of_getLsbD_eq fun i _ => ?_
    have hi : i ∉ setBits v := h ▸ Finset.notMem_empty i
    simpa using hi
  · rintro rfl
    exact Finset.eq_empty_of_forall_notMem fun i => by simp

theorem popcnt_eq_zero_iff : popcnt v = 0 ↔ v = 0 := by
  rw [popcnt_eq_card_setBits, Finset.card_eq_zero, setBits_eq_empty]

theorem clz_eq_width_iff : clz v = w ↔ v = 0 := by
  obtain ⟨hn, hv⟩ | ⟨hlt, hbit, -⟩ := clz_cases v
  · exact iff_of_true hn hv
  · exact iff_of_false hlt.ne fun hv => by simp [hv] at hbit

theorem ctz_eq_width_iff : ctz v = w ↔ v = 0 := by
  obtain ⟨hn, hv⟩ | ⟨hlt, hbit, -⟩ := ctz_cases v
  · exact iff_of_true hn hv
  · exact iff_of_false hlt.ne fun hv => by simp [hv] at hbit

/-- The counts of a value that is not 0 lead to its lowest and its highest set bit. -/
theorem exists_lowest_highest (hv : v ≠ 0) : ∃ l h, l ∈ setBits v ∧ h ∈ setBits v ∧
    (∀ i ∈ setBits v, l ≤ i ∧ i ≤ h) ∧ h < w ∧ ctz v = l ∧ clz v = w - 1 - h := by
  obtain ⟨-, h0⟩ | ⟨clt, hbit, habove⟩ := clz_cases v
  · exact absurd h0 hv
  obtain ⟨-, h0⟩ | ⟨-, lbit, hbelow⟩ := ctz_cases v
  · exact absurd h0 hv
  refine ⟨ctz v, w - 1 - clz v, mem_setBits.mpr lbit, mem_setBits.mpr hbit, fun i hi => ?_, by omega, rfl, by omega⟩
  rw [mem_setBits] at hi
  constructor <;> by_contra hlt
  · simp [hbelow i (by omega)] at hi
  · simp [habove i (by omega) (BitVec.lt_of_getLsbD hi)] at hi

/-- The sum of the counts falls short of `w - 1` by the distance of the lowest from the highest set bit. -/
theorem clz_add_ctz (hv : v ≠ 0) : clz v + ctz v ≤ w - 1 ∧ (clz v + ctz v = w - 1 ↔ popcnt v = 1) := by
  obtain ⟨l, h, hl, hh, hall, hw, hctz, hclz⟩ := exists_lowest_highest hv
  have hlh : l ≤ h := (hall l hl).2
  refine ⟨by omega, ?_⟩
  rw [popcnt_eq_card_setBits, Finset.card_eq_one]
  constructor
  · intro hsum
    refine ⟨l, Finset.eq_singleton_iff_unique_mem.mpr ⟨hl, fun i hi => ?_⟩⟩
    have := hall i hi
    omega
  · rintro ⟨k, hk⟩
    rw [hk, Finset.mem_singleton] at hl hh
    omega

end SetBits

/-! ### Zero extension and halves -/

theorem getLsbD_zext64 (u : BitVec 32) {j : Nat} (hj : j < 64) : (zext64 u).getLsbD j = u.getLsbD j := by
  simp [zext64, hj]

/-- Zero extension puts 32 zeros above the highest set bit and none below the lowest. -/
theorem leadingZeros_zext64 {u : BitVec 32} {n : Nat} (hn : LeadingZeros u n) : LeadingZeros (zext64 u) (32 + n) := by
  obtain ⟨rfl, rfl⟩ | ⟨h, hw, hbit, habove, rfl⟩ := hn
  · exact .inl ⟨rfl, rfl⟩
  · refine .inr ⟨h, by omega, by rwa [getLsbD_zext64 u (by omega)], fun j hj hj64 => ?_, by omega⟩
    rw [getLsbD_zext64 u hj64]
    by_cases hj32 : j < 32
    · exact habove j hj hj32
    · exact BitVec.getLsbD_of_ge u j (by omega)

theorem trailingZeros_zext64 {u : BitVec 32} {n : Nat} (hu : u ≠ 0) (hn : TrailingZeros u n) :
    TrailingZeros (zext64 u) n := by
  obtain ⟨h0, -⟩ | ⟨hw, hbit, hbelow⟩ := hn
  · exact absurd h0 hu
  · exact .inr ⟨by omega, by rwa [getLsbD_zext64 u (by omega)],
      fun j hj => by rw [getLsbD_zext64 u (by omega), hbelow j hj]⟩

theorem popcnt_extractLsb' {w : Nat} (v : BitVec w) (k n : Nat) :
    popcnt (v.extractLsb' k n) = ∑ i ∈ Finset.range n, (v.getLsbD (k + i)).toNat := by
  rw [popcnt_eq_sum]
  exact Finset.sum_congr rfl fun i hi => by simp [Finset.mem_range.mp hi]

/-- The sum over a word splits into the sums over its halves. -/
theorem popcnt_halves (v : Word) : popcnt v = popcnt (hi32 v) + popcnt (lo32 v) := by
  rw [hi32, lo32, popcnt_extractLsb', popcnt_extractLsb', popcnt_eq_sum, Nat.add_comm]
  simpa using Finset.sum_range_add (fun i => (v.getLsbD i).toNat) 32 32

/-- Settles O25: `clz` and `ctz` lead to the highest and the lowest set bit, and `popcnt` is the number of the set bits. -/
theorem bitCountRelations : Obligations.BitCountRelations :=
  ⟨fun _ _ => clz_add_ctz,
    fun _ _ => ⟨popcnt_eq_zero_iff, clz_eq_width_iff, ctz_eq_width_iff⟩,
    fun u => ⟨clz_eq_iff.mpr (leadingZeros_zext64 (leadingZeros_clz u)),
      fun hu => ctz_eq_iff.mpr (trailingZeros_zext64 hu (trailingZeros_ctz u)), ctz_eq_width_iff.mpr rfl⟩,
    popcnt_halves⟩

end Sys2Proof.Proofs
end

section
/-! PROOFS. The statements about the shifts and rotates (spec/41_shift_rotate.md R100 to R117). -/

namespace Sys2Proof.Proofs

open Sys2Proof.Machine Sys2Proof.Claims

/-! ### The functions and the rules' own words -/

section Rules

variable {w : Nat} (v : BitVec w) (n : Nat)

theorem shiftedLeft_shl : ShiftedLeft v (shl v n) (n % w) := fun i hi => by
  rw [getLsbD_shl v hi]
  by_cases h : n % w ≤ i <;> simp [h]

theorem shiftedRight_shr : ShiftedRight false v (shr v n) (n % w) := fun i hi => by
  rw [getLsbD_shr v hi]
  split
  · rfl
  · exact BitVec.getLsbD_of_ge v _ (by omega)

theorem shiftedRight_sar : ShiftedRight (v.getLsbD (w - 1)) v (sar v n) (n % w) := fun i hi => by
  rw [getLsbD_sar v hi]
  exact if_congr (by omega) rfl rfl

theorem rotatedLeft_rol : RotatedLeft v (rol v n) (n % w) := fun _ => getLsbD_rol v

theorem rotatedRight_ror : RotatedRight v (ror v n) (n % w) := fun _ => getLsbD_ror v

variable {v n} {r r' : BitVec w} {k : Nat} {fill : Bool}

/-- R102 and R103 give every bit of the result, so they leave no choice of it. -/
theorem shiftedRight_unique (hr : ShiftedRight fill v r k) (hr' : ShiftedRight fill v r' k) : r = r' :=
  BitVec.eq_of_getLsbD_eq fun i hi => (hr i hi).trans (hr' i hi).symm

/-- With a clear sign bit zeros enter, as in a logical shift. -/
theorem sar_eq_shr (h : v.getLsbD (w - 1) = false) : sar v n = shr v n :=
  shiftedRight_unique (h ▸ shiftedRight_sar v n) (shiftedRight_shr v n)

variable (w n) in
theorem sar_allOnes : sar (BitVec.allOnes w) n = BitVec.allOnes w := by
  refine BitVec.eq_of_getLsbD_eq fun i hi => ?_
  rw [getLsbD_sar _ hi]
  split <;> simp <;> omega

/-- The floor toward minus infinity is Lean's Euclidean quotient, since the divisor is positive. -/
theorem sar_eq_ofInt_ediv : sar v n = BitVec.ofInt w (v.toInt / 2 ^ (n % w)) :=
  congrArg _ (Int.fdiv_eq_ediv_of_nonneg _ (by positivity))

theorem rol_of_mod_eq_zero (h : n % w = 0) : rol v n = v := if_pos h

theorem rol_of_mod_ne_zero (h : n % w ≠ 0) :
    rol v n = BitVec.ofNat w (v.toNat * 2 ^ (n % w)) ||| BitVec.ofNat w (v.toNat / 2 ^ (w - n % w)) := if_neg h

theorem ror_of_mod_eq_zero (h : n % w = 0) : ror v n = v := if_pos h

theorem ror_of_mod_ne_zero (h : n % w ≠ 0) :
    ror v n = BitVec.ofNat w (v.toNat / 2 ^ (n % w)) ||| BitVec.ofNat w (v.toNat * 2 ^ (w - n % w)) := if_neg h

end Rules

/-! ### The commands -/

section Commands

variable (rd ra rb : Reg) (s : State)

/-- R107: a 32-bit command works on the low half and extends its result with zeros. -/
theorem completes_of_writeResult_low {i : Instr} {s : State} {rd ra : Reg} (f : BitVec 32 → BitVec 32)
    (h : exec i s = writeResult rd (zext64 (f (s.readLo ra))) s) : Completes i s rd ((f (low s ra)).setWidth 64) := by
  rw [low_eq_readLo]
  exact completes_of_writeResult h

theorem completes_shl32 : Completes (.shl32 rd ra rb) s rd ((shl (low s ra) (s.readX rb).toNat).setWidth 64) :=
  completes_of_writeResult_low (shl · _) rfl

theorem completes_shr32 : Completes (.shr32 rd ra rb) s rd ((shr (low s ra) (s.readX rb).toNat).setWidth 64) :=
  completes_of_writeResult_low (shr · _) rfl

theorem completes_sar32 : Completes (.sar32 rd ra rb) s rd ((sar (low s ra) (s.readX rb).toNat).setWidth 64) :=
  completes_of_writeResult_low (sar · _) rfl

theorem completes_rol32 : Completes (.rol32 rd ra rb) s rd ((rol (low s ra) (s.readX rb).toNat).setWidth 64) :=
  completes_of_writeResult_low (rol · _) rfl

theorem completes_ror32 : Completes (.ror32 rd ra rb) s rd ((ror (low s ra) (s.readX rb).toNat).setWidth 64) :=
  completes_of_writeResult_low (ror · _) rfl

theorem completes_shl64 : Completes (.shl64 rd ra rb) s rd (shl (s.readX ra) (s.readX rb).toNat) :=
  completes_of_writeResult rfl

theorem completes_shr64 : Completes (.shr64 rd ra rb) s rd (shr (s.readX ra) (s.readX rb).toNat) :=
  completes_of_writeResult rfl

theorem completes_sar64 : Completes (.sar64 rd ra rb) s rd (sar (s.readX ra) (s.readX rb).toNat) :=
  completes_of_writeResult rfl

theorem completes_rol64 : Completes (.rol64 rd ra rb) s rd (rol (s.readX ra) (s.readX rb).toNat) :=
  completes_of_writeResult rfl

theorem completes_ror64 : Completes (.ror64 rd ra rb) s rd (ror (s.readX ra) (s.readX rb).toNat) :=
  completes_of_writeResult rfl

/-- R110: the sign bit of the low half is bit 31 of the register. -/
theorem getLsbD_low_sign : (low s ra).getLsbD 31 = (s.readX ra).getLsbD 31 := by simp [low]

end Commands

/-- Settles O26: `shl` moves the bits as R101 says, and the commands write it. -/
theorem shiftLeft : Obligations.ShiftLeft :=
  ⟨fun _ v n => ⟨rfl, shiftedLeft_shl v n⟩, fun rd ra rb s =>
    ⟨⟨decode_cwR 0x20 rd ra rb 0 rfl, _, shiftedLeft_shl _ _, completes_shl32 rd ra rb s⟩,
      decode_cwR 0x28 rd ra rb 0 rfl, _, shiftedLeft_shl _ _, completes_shl64 rd ra rb s⟩⟩

/-- Settles O27: `shr` moves the bits as R102 says, and the commands write it. -/
theorem shiftRightLogical : Obligations.ShiftRightLogical :=
  ⟨fun _ v n => ⟨rfl, shiftedRight_shr v n⟩, fun rd ra rb s =>
    ⟨⟨decode_cwR 0x21 rd ra rb 0 rfl, _, shiftedRight_shr _ _, completes_shr32 rd ra rb s⟩,
      decode_cwR 0x29 rd ra rb 0 rfl, _, shiftedRight_shr _ _, completes_shr64 rd ra rb s⟩⟩

/-- Settles O28: `sar` moves the bits and fills as R103 says, and the commands write it. -/
theorem shiftRightArithmetic : Obligations.ShiftRightArithmetic :=
  ⟨fun w v n => ⟨sar_eq_ofInt_ediv, shiftedRight_sar v n, sar_eq_shr, sar_allOnes w n⟩, fun rd ra rb s =>
    ⟨⟨decode_cwR 0x22 rd ra rb 0 rfl, _, getLsbD_low_sign ra s ▸ shiftedRight_sar _ _, completes_sar32 rd ra rb s⟩,
      decode_cwR 0x2A rd ra rb 0 rfl, _, shiftedRight_sar _ _, completes_sar64 rd ra rb s⟩⟩

/-- Settles O29: `rol` moves the bits as R104 says, and the commands write it. -/
theorem rotateLeft : Obligations.RotateLeft :=
  ⟨fun _ v n => ⟨rotatedLeft_rol v n, rol_of_mod_eq_zero, rol_of_mod_ne_zero⟩, fun rd ra rb s =>
    ⟨⟨decode_cwR 0x23 rd ra rb 0 rfl, _, rotatedLeft_rol _ _, completes_rol32 rd ra rb s⟩,
      decode_cwR 0x2B rd ra rb 0 rfl, _, rotatedLeft_rol _ _, completes_rol64 rd ra rb s⟩⟩

/-- Settles O30: `ror` moves the bits as R105 says, and the commands write it. -/
theorem rotateRight : Obligations.RotateRight :=
  ⟨fun _ v n => ⟨rotatedRight_ror v n, ror_of_mod_eq_zero, ror_of_mod_ne_zero⟩, fun rd ra rb s =>
    ⟨⟨decode_cwR 0x24 rd ra rb 0 rfl, _, rotatedRight_ror _ _, completes_ror32 rd ra rb s⟩,
      decode_cwR 0x2C rd ra rb 0 rfl, _, rotatedRight_ror _ _, completes_ror64 rd ra rb s⟩⟩

/-! ### The laws of R106 -/

section Laws

variable {w i : Nat}

/-- Two turns that make up the whole width lead back to the place. -/
theorem mod_add_mod_of_add_eq {a b : Nat} (hab : a + b = w) (hi : i < w) : ((i + a) % w + b) % w = i := by
  rw [Nat.mod_add_mod, Nat.add_assoc, hab, Nat.add_mod_right, Nat.mod_eq_of_lt hi]

/-- Turning left by `n` and right by `n` make up the whole width. -/
theorem mod_add_sub_mod (n : Nat) (hi : i < w) : n % w + (w - n % w) = w :=
  Nat.add_sub_of_le (Nat.mod_lt n (by omega)).le

theorem mod_sub_add_mod (n : Nat) (hi : i < w) : w - n % w + n % w = w :=
  Nat.sub_add_cancel (Nat.mod_lt n (by omega)).le

variable (v : BitVec w) (n : Nat)

theorem ror_rol : ror (rol v n) n = v := by
  refine BitVec.eq_of_getLsbD_eq fun i hi => ?_
  rw [getLsbD_ror _ hi, getLsbD_rol _ (Nat.mod_lt _ (by omega)), mod_add_mod_of_add_eq (mod_add_sub_mod n hi) hi]

theorem rol_ror : rol (ror v n) n = v := by
  refine BitVec.eq_of_getLsbD_eq fun i hi => ?_
  rw [getLsbD_rol _ hi, getLsbD_ror _ (Nat.mod_lt _ (by omega)), mod_add_mod_of_add_eq (mod_sub_add_mod n hi) hi]

theorem rol_eq_ror_sub : rol v n = ror v (w - n % w) := by
  refine BitVec.eq_of_getLsbD_eq fun i hi => ?_
  rw [getLsbD_rol v hi, getLsbD_ror v hi, Nat.add_mod_mod]

/-- A rotate permutes the places of the bits, so it keeps their sum. -/
theorem popcnt_rol : popcnt (rol v n) = popcnt v := by
  rw [popcnt_eq_sum, popcnt_eq_sum]
  refine Finset.sum_nbij' (fun i => (i + (w - n % w)) % w) (fun i => (i + n % w) % w) ?_ ?_ ?_ ?_ ?_ <;>
    intro i hi <;> rw [Finset.mem_range] at hi
  · exact Finset.mem_range.mpr (Nat.mod_lt _ (by omega))
  · exact Finset.mem_range.mpr (Nat.mod_lt _ (by omega))
  · exact mod_add_mod_of_add_eq (mod_sub_add_mod n hi) hi
  · exact mod_add_mod_of_add_eq (mod_add_sub_mod n hi) hi
  · rw [getLsbD_rol v hi]

/-- R100: every function reduces its amount first, so that it has the period `w`. -/
theorem shift_add_width : shl v (n + w) = shl v n ∧ shr v (n + w) = shr v n ∧ sar v (n + w) = sar v n ∧
    rol v (n + w) = rol v n ∧ ror v (n + w) = ror v n := by
  simp only [shl, shr, sar, rol, ror, Nat.add_mod_right, and_self]

variable {n}

theorem shift_of_mod_eq_zero (h : n % w = 0) :
    shl v n = v ∧ shr v n = v ∧ sar v n = v ∧ rol v n = v ∧ ror v n = v := by
  refine ⟨?_, ?_, ?_, rol_of_mod_eq_zero h, ror_of_mod_eq_zero h⟩
  · simp [shl, h]
  · simp [shr, h]
  · rw [sar_eq, h, BitVec.sshiftRight_zero]

end Laws

/-- Settles O31: the laws hold at every width, those of the rotates by where each bit comes from. -/
theorem shiftAndRotateLaws : Obligations.ShiftAndRotateLaws := by
  intro w _ v n
  obtain ⟨hshl, hshr, hsar, hrol, hror⟩ := shift_add_width v n
  exact ⟨ror_rol v n, rol_ror v n, rol_eq_ror_sub v n, hshl, hshr, hsar, hrol, hror, shift_of_mod_eq_zero v,
    popcnt_rol v n⟩

/-- Settles O32: the second command finds the first one's result and the same amount, so `ror_rol` applies. -/
theorem rotateLeftThenRightRestores : Obligations.RotateLeftThenRightRestores := by
  intro rd ra rb re s hne
  constructor
  · obtain ⟨t, ht, hrd, hother, -⟩ := completes_rol64 rd ra rb s
    obtain ⟨u, hu, hre, -⟩ := completes_ror64 re rd rb t
    refine ⟨t, u, ht, hu, ?_⟩
    rw [hre, hrd, hother rb hne.symm, ror_rol]
  · obtain ⟨t, ht, hrd, hother, -⟩ := completes_rol32 rd ra rb s
    obtain ⟨u, hu, hre, -⟩ := completes_ror32 re rd rb t
    have hlow : low t rd = rol (low s ra) (s.readX rb).toNat := by
      rw [low, hrd, BitVec.setWidth_setWidth_of_le _ (by decide), BitVec.setWidth_eq]
    refine ⟨t, u, ht, hu, ?_⟩
    rw [hre, hlow, hother rb hne.symm, ror_rol, BitVec.toNat_setWidth_of_le (by decide), low, BitVec.toNat_setWidth]

end Sys2Proof.Proofs
end

section
/-! PROOFS. The statements about the carry adder (spec/42_carry_adder.md R130 to R138). -/

namespace Sys2Proof.Proofs

open Sys2Proof.Machine Sys2Proof.Claims

/-! ### Commands that write `CF` -/

section Commands

variable {i : Instr} {s : State} {rd : Reg} {v : Word} {c : Bool}

/-- A command that ends by `writeResultCF` has written its register and `CF` together and changed nothing else (R23). -/
theorem completes_of_writeResultCF (h : exec i s = writeResultCF rd v c s) :
    ∃ t, exec i s = .next t ∧ t.readX rd = v ∧ t.cf = c ∧ (∀ r, r ≠ rd → t.readX r = s.readX r) ∧
      t.responses = s.responses ++ [⟨0, 0⟩] :=
  ⟨_, h.trans (writeResultCF_next.mpr rfl), by simp, by simp, fun _ hr => by simp [hr], by simp⟩

theorem writesFlagOnly_of_writeFlag (h : exec i s = writeFlag c s) : ∃ t, exec i s = .next t ∧ WritesFlagOnly s t c :=
  ⟨_, h.trans (writeFlag_next.mpr rfl), fun _ => by simp, by simp, by simp⟩

end Commands

/-! ### One limb -/

section Limb

variable (a b : Word) (c : Bool)

theorem toNat_adc : (adc a b c).1.toNat = (a.toNat + b.toNat + c.toNat) % 2 ^ 64 := BitVec.toNat_ofNat _ _

theorem adc_carry_iff : (adc a b c).2 = true ↔ 2 ^ 64 ≤ a.toNat + b.toNat + c.toNat := decide_eq_true_iff

theorem toNat_sbb : ((sbb a b c).1.toNat : Int) = ((a.toNat : Int) - b.toNat - c.toNat) % 2 ^ 64 := bits64_toNat _

theorem sbb_borrow_iff : (sbb a b c).2 = true ↔ a.toNat < b.toNat + c.toNat := decide_eq_true_iff

end Limb

/-- Settles O33: by `adc_exact`, which the command's two writes pass on to `CF` and `x[rd]`. -/
theorem addWithCarryIsExact : Obligations.AddWithCarryIsExact := by
  refine ⟨fun a b c => ⟨toNat_adc a b c, adc_carry_iff a b c, adc_exact a b c⟩, fun rd ra rb s =>
    ⟨decode_cwR 0x30 rd ra rb 0 rfl, ?_⟩⟩
  obtain ⟨t, ht, hrd, hcf, hother, hresponses⟩ := completes_of_writeResultCF (i := .adc rd ra rb) (s := s) rfl
  exact ⟨t, ht, by rw [hrd, hcf, adc_exact], hother, hresponses⟩

/-- Settles O34: by `sbb_exact`, with the borrow by its own comparison. -/
theorem subtractWithBorrowIsExact : Obligations.SubtractWithBorrowIsExact := by
  refine ⟨fun a b c => ⟨toNat_sbb a b c, sbb_borrow_iff a b c, sbb_exact a b c⟩, fun rd ra rb s =>
    ⟨decode_cwR 0x31 rd ra rb 0 rfl, ?_⟩⟩
  obtain ⟨t, ht, hrd, hcf, hother, hresponses⟩ := completes_of_writeResultCF (i := .sbb rd ra rb) (s := s) rfl
  exact ⟨t, ht, by rw [hrd, hcf, sbb_exact], by rw [hcf, sbb_borrow_iff], hother, hresponses⟩

/-! ### Chains of limbs (R132) -/

/-- One limb's step is exact: with σ = 1 the flag is a carry of `adc`, with σ = -1 a borrow of `sbb`. -/
def ExactStep (σ : Int) (limbStep : Word → Word → Bool → Word × Bool) : Prop :=
  ∀ a b c, ((limbStep a b c).1.toNat : Int) + σ * ((limbStep a b c).2.toNat * 2 ^ 64)
    = a.toNat + σ * b.toNat + σ * c.toNat

theorem exactStep_adc : ExactStep 1 adc := fun a b c => by
  have := adc_exact a b c
  omega

theorem exactStep_sbb : ExactStep (-1) sbb := fun a b c => by
  have := sbb_exact a b c
  omega

section Chain

variable {limbStep : Word → Word → Bool → Word × Bool}

/-- By induction on the limbs: the flag out of the lowest limb is the flag into the rest, where it weighs 2^64. -/
theorem limbs_chain {σ : Int} (hstep : ExactStep σ limbStep) (pairs : List (Word × Word)) (c : Bool) :
    (limbs (chain limbStep pairs c).1 : Int) + σ * ((chain limbStep pairs c).2.toNat * 2 ^ (64 * pairs.length))
      = limbs (pairs.map (·.1)) + σ * limbs (pairs.map (·.2)) + σ * c.toNat := by
  induction pairs generalizing c with
  | nil => simp [chain, limbs]
  | cons p rest ih =>
    obtain ⟨a, b⟩ := p
    have hhere := hstep a b c
    have htail := ih (limbStep a b c).2
    simp only [chain, limbs, List.map_cons, List.length_cons, Nat.mul_add_one, pow_add]
    push_cast
    linear_combination hhere + 2 ^ 64 * htail

variable (limbStep) in
theorem length_chain (pairs : List (Word × Word)) (c : Bool) : (chain limbStep pairs c).1.length = pairs.length := by
  induction pairs generalizing c with
  | nil => rfl
  | cons p rest ih => exact congrArg (· + 1) (ih _)

end Chain

theorem limbs_lt (ws : List Word) : limbs ws < 2 ^ (64 * ws.length) := by
  induction ws with
  | nil => decide
  | cons a rest ih =>
    have ha := a.isLt
    rw [limbs, List.length_cons, Nat.mul_add_one, pow_add]
    omega

theorem limbs_chain_adc (pairs : List (Word × Word)) :
    limbs (chain adc pairs false).1 + (chain adc pairs false).2.toNat * 2 ^ (64 * pairs.length)
      = limbs (pairs.map (·.1)) + limbs (pairs.map (·.2)) := by
  have h := limbs_chain exactStep_adc pairs false
  zify
  simpa using h

theorem limbs_chain_sbb (pairs : List (Word × Word)) :
    (limbs (chain sbb pairs false).1 : Int) - (chain sbb pairs false).2.toNat * 2 ^ (64 * pairs.length)
      = limbs (pairs.map (·.1)) - limbs (pairs.map (·.2)) := by
  simpa [sub_eq_add_neg] using limbs_chain exactStep_sbb pairs false

/-- The result limbs stand for less than 2^(64 m), so the difference is negative exactly when the borrow is 1. -/
theorem chain_sbb_borrow_iff (pairs : List (Word × Word)) :
    (chain sbb pairs false).2 = true ↔ limbs (pairs.map (·.1)) < limbs (pairs.map (·.2)) := by
  have hexact := limbs_chain_sbb pairs
  have hlt := limbs_lt (chain sbb pairs false).1
  rw [length_chain] at hlt
  zify at hlt ⊢
  cases hborrow : (chain sbb pairs false).2 with
  | false =>
    rw [hborrow, Bool.toNat_false] at hexact
    exact iff_of_false (by decide) (by omega)
  | true =>
    rw [hborrow, Bool.toNat_true] at hexact
    exact iff_of_true rfl (by omega)

/-- Settles O36: both chains are exact by one induction, and the bound on the result gives the final borrow. -/
theorem chainingIsExact : Obligations.ChainingIsExact := fun pairs =>
  ⟨limbs_chain_adc pairs, limbs_chain_sbb pairs, chain_sbb_borrow_iff pairs⟩

/-! ### The flag commands -/

/-- R137: the flag as a register's value. -/
theorem zext64_ofBool (c : Bool) : zext64 (BitVec.ofBool c) = BitVec.ofNat 64 c.toNat := by
  cases c <;> rfl

theorem completes_getc (rd : Reg) (s : State) : Completes (.getc rd) s rd (BitVec.ofNat 64 s.cf.toNat) :=
  zext64_ofBool s.cf ▸ completes_of_writeResult rfl

/-- Bit 0 of a register is its remainder by 2. -/
theorem writesFlagOnly_putc (ra : Reg) (s : State) :
    ∃ t, exec (.putc ra) s = .next t ∧ WritesFlagOnly s t (decide ((s.readX ra).toNat % 2 = 1)) :=
  Nat.testBit_zero (s.readX ra).toNat ▸ writesFlagOnly_of_writeFlag rfl

/-- The value that `GETC` writes has the flag as its bit 0. -/
theorem decide_flag_mod_two (c : Bool) : decide ((BitVec.ofNat 64 c.toNat).toNat % 2 = 1) = c := by
  cases c <;> rfl

/-- R138: `PUTC xd` finds the value that `GETC xd` wrote. -/
theorem putc_after_getc (rd : Reg) (s : State) :
    ∃ t u, exec (.getc rd) s = .next t ∧ exec (.putc rd) t = .next u ∧ u.cf = s.cf := by
  obtain ⟨t, ht, hrd, -⟩ := completes_getc rd s
  obtain ⟨u, hu, -, hcf, -⟩ := writesFlagOnly_putc rd t
  exact ⟨t, u, ht, hu, by rw [hcf, hrd, decide_flag_mod_two]⟩

/-- Settles O35: each of the four ends by the one write its rule names. -/
theorem flagCommands : Obligations.FlagCommands := fun s =>
  ⟨⟨decode_eq_ok_iff_encode.mpr rfl, writesFlagOnly_of_writeFlag rfl⟩,
    ⟨decode_eq_ok_iff_encode.mpr rfl, writesFlagOnly_of_writeFlag rfl⟩,
    fun rd => ⟨decode_cwR 0x3A rd 0 0 0 rfl, completes_getc rd s⟩,
    fun ra => ⟨decode_cwR 0x3B 0 ra 0 0 rfl, writesFlagOnly_putc ra s⟩,
    fun rd => putc_after_getc rd s⟩

end Sys2Proof.Proofs
end

section
/-! PROOFS. The statements about the int64-alu (spec/43_int64_alu.md R151 to R160 and R170 to R180). -/

namespace Sys2Proof.Proofs

open Sys2Proof.Machine Sys2Proof.Claims

/-! ### The two readings of a word -/

/-- Bit 63 says how the signed reading differs from the unsigned one (R22). -/
theorem sign_cases (v : Word) : (v.getLsbD 63 = false ∧ v.toNat < 2 ^ 63 ∧ v.toInt = v.toNat) ∨
    (v.getLsbD 63 = true ∧ 2 ^ 63 ≤ v.toNat ∧ v.toInt = v.toNat - 2 ^ 64) := by
  have hbit : v.getLsbD 63 = decide (2 ^ 63 ≤ v.toNat) := v.msb_eq_getLsbD_last.symm.trans v.msb_eq_decide
  by_cases hle : 2 ^ 63 ≤ v.toNat
  · refine .inr ⟨hbit.trans (decide_eq_true hle), hle, v.toInt_eq_msb_cond.trans (if_pos ?_)⟩
    exact v.msb_eq_decide.trans (decide_eq_true hle)
  · refine .inl ⟨hbit.trans (decide_eq_false hle), by omega, v.toInt_eq_msb_cond.trans (if_neg ?_)⟩
    exact Bool.eq_false_iff.mp (v.msb_eq_decide.trans (decide_eq_false hle))

/-- Changing bit 63 carries the signed order over to the unsigned one (R180). -/
theorem toNat_xor_sign (v : Word) : ((v ^^^ 0x8000000000000000#64).toNat : Int) = v.toInt + 2 ^ 63 := by
  have hlow : (v.toNat ^^^ 2 ^ 63) % 2 ^ 63 = v.toNat % 2 ^ 63 := by
    rw [Nat.xor_mod_two_pow, Nat.mod_self, Nat.xor_zero]
  have htop : (v.toNat ^^^ 2 ^ 63) / 2 ^ 63 = v.toNat / 2 ^ 63 ^^^ 1 := by
    rw [Nat.xor_div_two_pow, Nat.div_self (by decide)]
  rw [BitVec.toNat_xor, show (0x8000000000000000#64).toNat = 2 ^ 63 from rfl]
  obtain ⟨-, hlt, hint⟩ | ⟨-, hle, hint⟩ := sign_cases v
  · rw [show v.toNat / 2 ^ 63 = 0 by omega, Nat.zero_xor] at htop
    omega
  · have := v.isLt
    rw [show v.toNat / 2 ^ 63 = 1 by omega, Nat.xor_self] at htop
    omega

theorem toNat_xor_sign_lt_iff (a b : Word) :
    (a ^^^ 0x8000000000000000#64).toNat < (b ^^^ 0x8000000000000000#64).toNat ↔ a.toInt < b.toInt := by
  have ha := toNat_xor_sign a
  have hb := toNat_xor_sign b
  omega

/-! ### Wraparound (R151 to R156, R160) -/

theorem toNat_neg64 (v : Word) : (neg64 v).toNat = (2 ^ 64 - v.toNat) % 2 ^ 64 := by
  have := bits64_toNat (0 - v.toNat)
  rw [neg64]
  omega

/-- R153: the most negative value, whose negation wraps, is its own absolute value. -/
theorem toNat_abs (v : Word) : (if v.getLsbD 63 then neg64 v else v).toNat =
    if 2 ^ 63 ≤ v.toNat then 2 ^ 64 - v.toNat else v.toNat := by
  obtain ⟨hsign, hlt, -⟩ | ⟨hsign, hle, -⟩ := sign_cases v
  · rw [if_neg (Bool.eq_false_iff.mp hsign), if_neg (by omega)]
  · rw [if_pos hsign, if_pos hle, toNat_neg64, Nat.mod_eq_of_lt (by omega)]

theorem toNat_bits64_add (a b : Word) : (bits64 (a.toNat + b.toNat)).toNat = (a.toNat + b.toNat) % 2 ^ 64 := by
  exact_mod_cast bits64_toNat (a.toNat + b.toNat)

/-- R160: both readings of an operand are the same modulo 2^64. -/
theorem bits64_add_signed (a b : Word) : bits64 (a.toNat + b.toNat) = BitVec.ofInt 64 (a.toInt + b.toInt) := by
  simp [bits64, BitVec.ofInt_add]

theorem bits64_sub_signed (a b : Word) : bits64 (a.toNat - b.toNat) = BitVec.ofInt 64 (a.toInt - b.toInt) := by
  simp [bits64, sub_eq_add_neg, BitVec.ofInt_add, BitVec.ofInt_neg]

/-- Settles O37: negation is a subtraction from 2^64, and the complement one from 2^64 - 1. -/
theorem negateComplementAbsolute : Obligations.NegateComplementAbsolute := fun rd ra _ =>
  ⟨⟨decode_cwR 0x40 rd ra 0 0 rfl, _, completes_of_writeResult rfl, toNat_neg64 _⟩,
    ⟨decode_cwR 0x41 rd ra 0 0 rfl, _, completes_of_writeResult rfl, BitVec.toNat_not⟩,
    decode_cwR 0x42 rd ra 0 0 rfl, _, completes_of_writeResult rfl, toNat_abs _⟩

/-- Settles O38: the result is the same word from either reading, because `bits64` takes it modulo 2^64. -/
theorem addSubtractWrap : Obligations.AddSubtractWrap := fun rd ra rb _ =>
  ⟨⟨decode_cwR 0x44 rd ra rb 0 rfl, _, completes_of_writeResult rfl, toNat_bits64_add _ _, bits64_add_signed _ _⟩,
    ⟨decode_cwR 0x45 rd ra rb 0 rfl, _, completes_of_writeResult rfl, bits64_toNat _, bits64_sub_signed _ _⟩,
    decode_cwR 0x46 rd ra rb 0 rfl, _, completes_of_writeResult rfl, bits64_toNat _, bits64_sub_signed _ _⟩

/-! ### Bitwise commands (R157 to R159) -/

theorem toNat_and_bits : ∀ p q : Bool, (p && q).toNat = p.toNat * q.toNat := by decide

theorem toNat_xor_bits : ∀ p q : Bool, (p ^^ q).toNat = (p.toNat + q.toNat) % 2 := by decide

/-- Settles O39: each bit of the result is that of the operands' bits at its place. -/
theorem bitwiseCommands : Obligations.BitwiseCommands := by
  refine fun rd ra rb s => ⟨⟨decode_cwR 0x47 rd ra rb 0 rfl, _, completes_of_writeResult rfl, fun i _ => ?_⟩,
    ⟨decode_cwR 0x48 rd ra rb 0 rfl, _, completes_of_writeResult rfl, fun i _ => ?_⟩,
    decode_cwR 0x49 rd ra rb 0 rfl, _, completes_of_writeResult rfl, fun i _ => ?_⟩
  · rw [BitVec.getLsbD_and, toNat_and_bits]
  · rw [BitVec.getLsbD_or, Bool.or_eq_true]
  · rw [BitVec.getLsbD_xor, toNat_xor_bits]

/-! ### Truth values (R170) -/

theorem truth_eq_ite {p : Bool} {P : Prop} [Decidable P] (hp : p = true ↔ P) : truth p = if P then 1 else 0 := by
  split
  · next h => rw [hp.mpr h]; rfl
  · next h => rw [Bool.eq_false_iff.mpr (mt hp.mp h)]; rfl

theorem completes_of_truth {i : Instr} {s : State} {rd : Reg} {p : Bool} {P : Prop} [Decidable P]
    (h : exec i s = writeResult rd (truth p) s) (hp : p = true ↔ P) : Completes i s rd (if P then 1 else 0) :=
  truth_eq_ite hp ▸ completes_of_writeResult h

/-- Equality of patterns is equality of their numbers. -/
theorem beq_iff_toNat_eq {a b : Word} : (a == b) = true ↔ a.toNat = b.toNat :=
  beq_iff_eq.trans BitVec.toNat_inj.symm

/-- Settles O40: two patterns are equal exactly when their numbers are. -/
theorem equalityTests : Obligations.EqualityTests := fun rd ra rb _ =>
  ⟨⟨decode_cwR 0x50 rd ra 0 0 rfl, completes_of_truth rfl beq_iff_toNat_eq⟩,
    decode_cwR 0x51 rd ra rb 0 rfl, completes_of_truth rfl beq_iff_toNat_eq⟩

/-- Settles O41: each test writes its own comparison as a truth value. -/
theorem orderTests : Obligations.OrderTests := fun rd ra rb _ =>
  ⟨⟨decode_cwR 0x52 rd ra rb 0 rfl, completes_of_truth rfl decide_eq_true_iff⟩,
    ⟨decode_cwR 0x53 rd ra rb 0 rfl, completes_of_truth rfl decide_eq_true_iff⟩,
    ⟨decode_cwR 0x54 rd ra rb 0 rfl, completes_of_truth rfl decide_eq_true_iff⟩,
    decode_cwR 0x55 rd ra rb 0 rfl, completes_of_truth rfl decide_eq_true_iff⟩

/-! ### Three-way comparison (R177 to R179) -/

section ThreeWay

variable {x y : Int}

theorem threeWay_of_lt (h : x < y) : threeWay x y = -1 := if_pos h

theorem threeWay_of_gt (h : x > y) : threeWay x y = 1 := (if_neg h.not_gt).trans (if_pos h)

variable (x y) in
theorem threeWay_self : threeWay x x = 0 := (if_neg (lt_irrefl x)).trans (if_neg (lt_irrefl x))

variable (x y) in
/-- Only the order counts, and a shift of both operands keeps it. -/
theorem threeWay_sub_right (k : Int) : threeWay (x - k) (y - k) = threeWay x y := by
  simp only [threeWay, sub_lt_sub_iff_right]

end ThreeWay

section Functions

variable {a b : Word}

theorem cmpU_of_lt (h : a.toNat < b.toNat) : cmpU a b = -1 := threeWay_of_lt (Int.ofNat_lt.mpr h)

theorem cmpU_of_gt (h : a.toNat > b.toNat) : cmpU a b = 1 := threeWay_of_gt (Int.ofNat_lt.mpr h)

theorem cmpU_of_eq (h : a = b) : cmpU a b = 0 := h ▸ threeWay_self _

theorem cmpS_of_eq (h : a = b) : cmpS a b = 0 := h ▸ threeWay_self _

/-- With the same bit 63 the signed readings differ from the unsigned ones by the same number. -/
theorem cmpU_eq_cmpS (h : a.getLsbD 63 = b.getLsbD 63) : cmpU a b = cmpS a b := by
  obtain ⟨ha, -, ia⟩ | ⟨ha, -, ia⟩ := sign_cases a <;> obtain ⟨hb, -, ib⟩ | ⟨hb, -, ib⟩ := sign_cases b
  · rw [cmpU, cmpS, ia, ib]
  · cases ha.symm.trans (h.trans hb)
  · cases ha.symm.trans (h.trans hb)
  · rw [cmpU, cmpS, ia, ib, threeWay_sub_right]

/-- The operand with bit 63 set is the larger one unsigned and the smaller one signed. -/
theorem cmpU_ne_cmpS (h : a.getLsbD 63 ≠ b.getLsbD 63) : cmpU a b ≠ cmpS a b := by
  obtain ⟨ha, na, ia⟩ | ⟨ha, na, ia⟩ := sign_cases a <;> obtain ⟨hb, nb, ib⟩ | ⟨hb, nb, ib⟩ := sign_cases b
  · exact absurd (ha.trans hb.symm) h
  · have := b.isLt
    rw [cmpU_of_lt (by omega), cmpS, threeWay_of_gt (by omega)]
    decide
  · have := a.isLt
    rw [cmpU_of_gt (by omega), cmpS, threeWay_of_lt (by omega)]
    decide
  · exact absurd (ha.trans hb.symm) h

end Functions

/-- Settles O43: the functions are `threeWay` of either reading, and bit 63 decides whether the two orders agree. -/
theorem threeWayFunctions : Obligations.ThreeWayFunctions :=
  ⟨fun _ _ => ⟨cmpU_of_lt, cmpU_of_eq, cmpU_of_gt, threeWay_of_lt, cmpS_of_eq, threeWay_of_gt, cmpU_eq_cmpS,
    cmpU_ne_cmpS⟩, by decide, by decide⟩

section Commands

variable {rd ra rb : Reg} {s : State} {k : Int}

theorem completes_cmp (h : cmpU (s.readX ra) (s.readX rb) = k) : Completes (.cmp rd ra rb) s rd (bits64 k) :=
  h ▸ completes_of_writeResult rfl

theorem completes_scmp (h : cmpS (s.readX ra) (s.readX rb) = k) : Completes (.scmp rd ra rb) s rd (bits64 k) :=
  h ▸ completes_of_writeResult rfl

end Commands

/-- Settles O42: the commands write the value of their function as a word. -/
theorem threeWayComparisons : Obligations.ThreeWayComparisons := fun rd ra rb _ =>
  ⟨decode_cwR 0x56 rd ra rb 0 rfl, decode_cwR 0x57 rd ra rb 0 rfl, fun h => completes_cmp (cmpU_of_lt h),
    fun h => completes_cmp (cmpU_of_gt h), fun h => completes_scmp (threeWay_of_lt h),
    fun h => completes_scmp (threeWay_of_gt h),
    fun h => ⟨completes_cmp (cmpU_of_eq h), completes_scmp (cmpS_of_eq h)⟩⟩

/-! ### The relations of R180 -/

/-- A three-way result beside the three tests of the same order: of less, equal and greater one holds, and each fixes all
four values. -/
theorem threeWay_relations {x y : Int} {l e g : Bool} (hl : l = true ↔ x < y) (he : e = true ↔ x = y)
    (hg : g = true ↔ x > y) :
    (bits64 (threeWay x y) = 0xFFFFFFFFFFFFFFFF#64 ↔ truth l = 1) ∧ (bits64 (threeWay x y) = 1 ↔ truth g = 1) ∧
    (bits64 (threeWay x y) = 0 ↔ truth e = 1) ∧ (truth l).toNat + (truth e).toNat + (truth g).toNat = 1 := by
  rw [truth_eq_ite hl, truth_eq_ite he, truth_eq_ite hg]
  obtain h | rfl | h := lt_trichotomy x y
  · rw [threeWay_of_lt h, if_pos h, if_neg h.ne, if_neg h.not_gt]
    decide
  · rw [threeWay_self, if_neg (lt_irrefl x), if_pos rfl]
    decide
  · rw [threeWay_of_gt h, if_neg h.not_gt, if_neg h.ne', if_pos h]
    decide

/-- `LT` of the operands with bit 63 changed answers what `ILT` answers of the operands themselves. -/
theorem completes_lt_of_xor_sign {rd ra rb : Reg} {s t : State}
    (ha : t.readX ra = s.readX ra ^^^ 0x8000000000000000#64) (hb : t.readX rb = s.readX rb ^^^ 0x8000000000000000#64) :
    Completes (.lt rd ra rb) t rd (truth (decide ((s.readX ra).toInt < (s.readX rb).toInt))) := by
  have horder : (t.readX ra).toNat < (t.readX rb).toNat ↔ (s.readX ra).toInt < (s.readX rb).toInt := by
    rw [ha, hb, toNat_xor_sign_lt_iff]
  rw [← decide_eq_decide.mpr horder]
  exact completes_of_writeResult rfl

/-- Settles O44: `threeWay_relations` in the unsigned and in the signed order, which bit 63 carries over. -/
theorem comparisonRelations : Obligations.ComparisonRelations := by
  intro rd ra rb s
  obtain ⟨hless, hgreater, hequal, hone⟩ := threeWay_relations (decide_eq_true_iff.trans Int.ofNat_lt.symm)
    (beq_iff_toNat_eq.trans Int.ofNat_inj.symm) (decide_eq_true_iff.trans Int.ofNat_lt.symm)
  obtain ⟨hsless, hsgreater, hsequal, hsone⟩ := threeWay_relations decide_eq_true_iff
    ((beq_iff_eq (α := Word)).trans BitVec.toInt_inj.symm) decide_eq_true_iff
  refine ⟨_, _, _, _, _, _, _, _, completes_cmp rfl, completes_scmp rfl, completes_of_writeResult rfl,
    completes_of_writeResult rfl, completes_of_writeResult rfl, completes_of_writeResult rfl,
    completes_of_writeResult rfl, completes_of_writeResult rfl,
    hless, hgreater, hequal, hsless, hsgreater, hsequal, hone, hsone, fun _ => completes_lt_of_xor_sign,
    fun hzero => by rw [hzero]; rfl⟩

end Sys2Proof.Proofs
end

section
/-! PROOFS. The statements about construction, accessors and host transfer (spec/44_int64_move.md R191 to R205). -/

namespace Sys2Proof.Proofs

open Sys2Proof.Machine Sys2Proof.Claims

/-! ### Host transfer (R195, R196) -/

/-- R32: the command that reads `din`. -/
theorem readsDin_iff (i : Instr) : i.readsDin = true ↔ ∃ rd, i = .ldv rd := by
  cases i <;> simp [Instr.readsDin]

/-- R32: the command whose `dout` is a register's value. -/
theorem setsDout_iff (i : Instr) : i.setsDout = true ↔ ∃ ra, i = .rdv ra := by
  cases i <;> simp [Instr.setsDout]

section HostTransfer

variable {i : Instr}

theorem completes_ldv (rd : Reg) (s : State) : Completes (.ldv rd) s rd s.din := completes_of_writeResult rfl

/-- Accepting the command puts its `din` on the port and changes nothing of the unit. -/
theorem step_ldv {s : State} {rd : Reg} {c : Command} {rest : List HostEvent} (hd : decode c.cw = .ok (.ldv rd))
    (hp : s.pending = .command c :: rest) : ∃ t, step s = .next t ∧ WritesOnly s t rd c.din := by
  obtain ⟨t, ht, hw⟩ := completes_ldv rd (s.accept c rest)
  exact ⟨t, (step_command hp hd).trans ht, hw⟩

/-- A command that ends by `sendData` has only answered (R196). -/
theorem answersOnly_of_sendData {s : State} {v : Word} (h : exec i s = sendData v s) :
    ∃ t, exec i s = .next t ∧ AnswersOnly s t 0 v :=
  ⟨_, h.trans (sendData_next.mpr rfl), fun _ => rfl, rfl, rfl⟩

/-- The data-in port is no part of what an effect changes. -/
theorem Effect.apply_with_din (e : Effect) (s : State) (din : Word) :
    e.apply { s with din := din } = { e.apply s with din := din } := by
  obtain ⟨write, flag, response⟩ := e
  cases write <;> rfl

/-- `din` is a source of no other command than `LDV`, so it does not enter the effect. -/
theorem exec_with_din (h : i.readsDin = false) (s : State) (din : Word) :
    ∃ t, exec i s = .next t ∧ exec i { s with din := din } = .next { t with din := din } := by
  obtain ⟨e, -, h₁, h₂⟩ := exec_sameEffect (i := i) (s₁ := s) (s₂ := { s with din := din })
    ⟨fun _ _ => rfl, fun _ => rfl, fun hreads => absurd (h.symm.trans hreads) Bool.false_ne_true⟩
  exact ⟨_, h₁, e.apply_with_din s din ▸ h₂⟩

/-- Of the five ways in which a command can end, only `sendData` answers data (R40). -/
theorem exec_dout_eq_zero (hi : i.setsDout = false) (s : State) :
    ∃ t r, exec i s = .next t ∧ t.responses = s.responses ++ [r] ∧ r.dout = 0 := by
  obtain ⟨rd, v, -, -, -, h⟩ | ⟨rd, v, c, -, -, -, h⟩ | ⟨c, -, -, -, h⟩ | ⟨v, -, -, hsets, -⟩ | ⟨f, -, -, -, h⟩ :=
    exec_shape i s
  · exact ⟨_, _, h.trans (writeResult_next.mpr rfl), rfl, rfl⟩
  · exact ⟨_, _, h.trans (writeResultCF_next.mpr rfl), rfl, rfl⟩
  · exact ⟨_, _, h.trans (writeFlag_next.mpr rfl), rfl, rfl⟩
  · exact absurd (hi.symm.trans hsets) Bool.false_ne_true
  · exact ⟨_, _, h.trans (raise_next.mpr rfl), rfl, rfl⟩

end HostTransfer

/-- Settles O46: the two transfers end by their own operations, and the table of R32 names no other command for `din` or `dout`. -/
theorem hostTransfer : Obligations.HostTransfer := by
  refine ⟨fun r din rest s => ⟨⟨decode_cwR 0x64 r 0 0 0 rfl, completes_ldv r s, step_ldv (decode_cwR 0x64 r 0 0 0 rfl)⟩,
    decode_cwR 0x65 0 r 0 0 rfl, answersOnly_of_sendData rfl⟩, fun i s din hi => exec_with_din ?_ s din,
    fun i s hi => exec_dout_eq_zero ?_ s⟩
  · exact Bool.eq_false_iff.mpr fun hreads => ((readsDin_iff i).mp hreads).elim hi
  · exact Bool.eq_false_iff.mpr fun hsets => ((setsDout_iff i).mp hsets).elim hi

/-! ### Halves as numbers (R197) -/

section Halves

variable (v : Word) (high low : Half)

theorem toNat_joinHalves : (joinHalves high low).toNat = high.toNat * 2 ^ 32 + low.toNat := toNat_append_eq_add high low

theorem toNat_lo32 : (lo32 v).toNat = v.toNat % 2 ^ 32 := by
  rw [lo32, BitVec.extractLsb'_toNat, Nat.shiftRight_zero]

theorem toNat_hi32 : (hi32 v).toNat = v.toNat / 2 ^ 32 := by
  have := v.isLt
  rw [hi32, BitVec.extractLsb'_toNat, Nat.shiftRight_eq_div_pow]
  omega

theorem toNat_readLo (s : State) (r : Reg) : (s.readLo r).toNat = (s.readX r).toNat % 2 ^ 32 := toNat_lo32 (s.readX r)

/-- Zero extension keeps the number. -/
theorem zext64_eq_ofNat {n : Nat} (u : BitVec n) : zext64 u = BitVec.ofNat 64 u.toNat := (BitVec.ofNat_toNat 64 u).symm

theorem toNat_zext64_half (u : Half) : (zext64 u).toNat = u.toNat := BitVec.toNat_setWidth_of_le (by decide)

/-- The zero extension of a half has the half's number, also modulo 2^32. -/
theorem toNat_zext64_emod : ((zext64 high).toNat : Int) % 2 ^ 32 = high.toNat := by
  have := high.isLt
  rw [toNat_zext64_half]
  omega

/-- The sign extension of a half has the half's number modulo 2^32. -/
theorem toInt_sext64_emod : (sext64 high).toInt % 2 ^ 32 = high.toNat := by
  have := high.isLt
  rw [sext64, BitVec.toInt_signExtend_of_le (by decide), BitVec.toInt_eq_toNat_cond]
  split <;> omega

variable {high} in
/-- R200: of a number multiplied by 2^32 only the low 32 bits stay, so either extension of the high half joins the halves. -/
theorem bits64_mul_or_zext64 {k : Int} (hk : k % 2 ^ 32 = high.toNat) :
    bits64 (k * 2 ^ 32) ||| zext64 low = joinHalves high low := by
  have hhigh : (bits64 (k * 2 ^ 32)).toNat = high.toNat <<< 32 := by
    have := bits64_toNat (k * 2 ^ 32)
    rw [Nat.shiftLeft_eq]
    omega
  refine BitVec.eq_of_toNat_eq ?_
  rw [BitVec.toNat_or, hhigh, toNat_zext64_half, ← Nat.shiftLeft_add_eq_or_of_lt low.isLt, Nat.shiftLeft_eq,
    toNat_joinHalves]

end Halves

/-! ### Two halves (R198 to R200, R204, R205) -/

section TwoHalves

variable (rd ra rb : Reg) (s : State)

theorem completes_mku : Completes (.mku rd ra rb) s rd (joinHalves (s.readLo ra) (s.readLo rb)) :=
  bits64_mul_or_zext64 (s.readLo rb) (toNat_zext64_emod (s.readLo ra)) ▸ completes_of_writeResult rfl

theorem completes_mks : Completes (.mks rd ra rb) s rd (joinHalves (s.readLo ra) (s.readLo rb)) :=
  bits64_mul_or_zext64 (s.readLo rb) (toInt_sext64_emod (s.readLo ra)) ▸ completes_of_writeResult rfl

end TwoHalves

/-- Settles O47: both commands write the joined halves. -/
theorem twoHalvesConstruction : Obligations.TwoHalvesConstruction := by
  refine fun rd ra rb s => ⟨decode_cwR 0x66 rd ra rb 0 rfl, decode_cwR 0x67 rd ra rb 0 rfl, _, completes_mku rd ra rb s,
    completes_mks rd ra rb s, ?_⟩
  rw [toNat_joinHalves, toNat_readLo, toNat_readLo]

/-- Settles O49: both commands join a half of the receiver with one of the old destination, read before the write. -/
theorem halfWrites : Obligations.HalfWrites := by
  refine fun rd ra s => ⟨⟨decode_cwR 0x6B rd ra 0 0 rfl, _, completes_of_writeResult rfl, ?_⟩,
    decode_cwR 0x6C rd ra 0 0 rfl, _, completes_of_writeResult rfl, ?_⟩
  · rw [toNat_joinHalves, toNat_readLo, toNat_readLo]
  · rw [toNat_joinHalves, toNat_hi32, toNat_readLo]

/-! ### Construction (R191 to R194) -/

/-- R51's sum is the word with those fields. -/
theorem cwI_eq_wordI (op : BitVec 8) (d : Reg) (imm : Imm16) :
    cwI op.toNat d imm.toNat = wordI op (regBits d) imm :=
  (congrArg (BitVec.ofNat 32) (toNat_wordI op (regBits d) imm).symm).trans (by simp)

theorem decode_cwI {i : Instr} (op : BitVec 8) (d : Reg) (imm : Imm16) (h : encode i = wordI op (regBits d) imm) :
    decode (cwI op.toNat d imm.toNat) = .ok i :=
  decode_eq_ok_iff_encode.mpr (h.trans (cwI_eq_wordI op d imm).symm)

theorem completes_li (rd : Reg) (imm : Imm16) (s : State) : Completes (.li rd imm) s rd (BitVec.ofNat 64 imm.toNat) :=
  zext64_eq_ofNat imm ▸ completes_of_writeResult rfl

/-- Settles O45: a zero-extended immediate keeps its unsigned number, a sign-extended one its signed number. -/
theorem constructionCommands : Obligations.ConstructionCommands := fun rd ra imm s =>
  ⟨⟨decode_cwR 0x60 rd 0 0 0 rfl, completes_of_writeResult rfl⟩,
    ⟨decode_cwR 0x61 rd ra 0 0 rfl, completes_of_writeResult rfl⟩,
    ⟨decode_cwI 0x62 rd imm rfl, completes_li rd imm s⟩,
    decode_cwI 0x63 rd imm rfl, completes_of_writeResult rfl⟩

/-! ### Sign and halves (R201 to R203) -/

/-- Bit 63 is the quotient by 2^63, since the word ends there. -/
theorem truth_sign_eq (v : Word) : truth (v.getLsbD 63) = BitVec.ofNat 64 (v.toNat / 2 ^ 63) := by
  have hbit : (v.getLsbD 63).toNat = v.toNat / 2 ^ 63 := by
    have := v.isLt
    have := Nat.toNat_testBit v.toNat 63
    rw [BitVec.getLsbD]
    omega
  rw [truth, zext64_ofBool, hbit]

theorem zext64_hi32 (v : Word) : zext64 (hi32 v) = BitVec.ofNat 64 (v.toNat / 2 ^ 32) := by
  rw [zext64_eq_ofNat, toNat_hi32]

theorem zext64_lo32 (v : Word) : zext64 (lo32 v) = BitVec.ofNat 64 (v.toNat % 2 ^ 32) := by
  rw [zext64_eq_ofNat, toNat_lo32]

/-- Settles O48: the parts of a word are its quotients and its remainder by powers of two. -/
theorem signAndHalves : Obligations.SignAndHalves := fun rd ra s =>
  ⟨⟨decode_cwR 0x68 rd ra 0 0 rfl, truth_sign_eq (s.readX ra) ▸ completes_of_writeResult rfl⟩,
    ⟨decode_cwR 0x69 rd ra 0 0 rfl, zext64_hi32 (s.readX ra) ▸ completes_of_writeResult rfl⟩,
    decode_cwR 0x6A rd ra 0 0 rfl, zext64_lo32 (s.readX ra) ▸ completes_of_writeResult rfl⟩

end Sys2Proof.Proofs
end

section
/-! PROOFS. The statements about the binary64 codec (spec/45_binary64_codec.md R221 to R234): a pattern by its three fields, what
build and split do to the fields, and the commands that pass both on to the registers. -/

namespace Sys2Proof.Proofs

open Sys2Proof.Machine Sys2Proof.Claims

/-! ### The fields of a pattern (R221) -/

section Fields

variable {p q : Word}

theorem toNat_sign (v : Word) : (v.getLsbD 63).toNat = v.toNat / 2 ^ 63 := by
  have := v.isLt
  obtain ⟨hbit, hlt, -⟩ | ⟨hbit, hle, -⟩ := sign_cases v
  · rw [hbit, Bool.toNat_false]; omega
  · rw [hbit, Bool.toNat_true]; omega

theorem toNat_bit52 (v : Word) : (v.getLsbD 52).toNat = v.toNat / 2 ^ 52 % 2 := Nat.toNat_testBit v.toNat 52

theorem biasedExponent_lt (p : Word) : biasedExponent p < 2048 := BitVec.isLt _

theorem expField_eq (s : State) (r : Reg) : expField s r = biasedExponent (s.readX r) := (biasedExponent_eq _).symm

theorem fraction_eq_zero_iff : fraction p = 0 ↔ p.toNat % 2 ^ 52 = 0 := by
  rw [← fraction_toNat, BitVec.toNat_eq]; rfl

/-- A pattern is its sign bit, its exponent field and its fraction. -/
theorem pattern_eq_of_fields (hs : p.getLsbD 63 = q.getLsbD 63) (hE : biasedExponent p = biasedExponent q)
    (hf : p.toNat % 2 ^ 52 = q.toNat % 2 ^ 52) : p = q := by
  have hsp := toNat_sign p
  have hsq := toNat_sign q
  rw [biasedExponent_eq, biasedExponent_eq] at hE
  rw [hs] at hsp
  exact BitVec.eq_of_toNat_eq (by omega)

theorem isExceptional_iff : isExceptional p = true ↔ biasedExponent p = 0 ∨ biasedExponent p = 2047 := by
  simp [isExceptional]

theorem isExceptional_eq_false_iff :
    isExceptional p = false ↔ ¬ (biasedExponent p = 0 ∨ biasedExponent p = 2047) := by
  rw [← isExceptional_iff, Bool.not_eq_true]

/-- R234: the check of `FNRM` is the opposite of `isExceptional`. -/
theorem decide_normal_eq (p : Word) :
    decide (1 ≤ biasedExponent p ∧ biasedExponent p ≤ 2046) = !isExceptional p := by
  have := biasedExponent_lt p
  rw [Bool.eq_iff_iff, Bool.not_eq_true', isExceptional_eq_false_iff, decide_eq_true_iff]
  omega

/-- R225: of all the fields only 0, which wraps, and 2047 give a number of 2046 or more. -/
theorem isExceptional_iff_ofInt {n : Nat} (hn : 11 ≤ n) :
    isExceptional p = true ↔ 2046 ≤ (BitVec.ofInt n ((biasedExponent p : Int) - 1)).toNat := by
  have hlt := biasedExponent_lt p
  have hpow : (2 : Int) ^ 11 ≤ 2 ^ n := pow_le_pow_right₀ (by decide) hn
  rw [isExceptional_iff, BitVec.toNat_ofInt]
  push_cast
  by_cases h0 : biasedExponent p = 0
  · have hwrap : (-1 : Int) % 2 ^ n = 2 ^ n - 1 := by
      rw [← Int.add_emod_right, Int.emod_eq_of_lt] <;> omega
    rw [h0, show ((0 : Nat) : Int) - 1 = -1 from rfl, hwrap]
    omega
  · rw [Int.emod_eq_of_lt (by omega) (by omega)]
    omega

/-- R221: the classes by exponent field and fraction. -/
theorem classify_iff (p : Word) :
    (classify p = .zero ↔ biasedExponent p = 0 ∧ p.toNat % 2 ^ 52 = 0) ∧
    (classify p = .subnormal ↔ biasedExponent p = 0 ∧ p.toNat % 2 ^ 52 ≠ 0) ∧
    (classify p = .normal ↔ biasedExponent p ≠ 0 ∧ biasedExponent p ≠ 2047) ∧
    (classify p = .infinity ↔ biasedExponent p = 2047 ∧ p.toNat % 2 ^ 52 = 0) ∧
    (classify p = .nan ↔ biasedExponent p = 2047 ∧ p.toNat % 2 ^ 52 ≠ 0) := by
  have hf := fraction_eq_zero_iff (p := p)
  unfold classify
  split_ifs <;> simp_all

end Fields

/-! ### Valid triples (R223) -/

section Valid

variable {m : Word} {e : Int}

theorem rangeOk_iff : rangeOk e = true ↔ -1023 ≤ e ∧ e ≤ 1024 := by
  simp [rangeOk]

theorem invariantOk_of_normal (h : -1022 ≤ e ∧ e ≤ 1023) : invariantOk m e = m.getLsbD 52 := if_pos h

theorem invariantOk_of_exceptional (h : e = -1023 ∨ e = 1024) : invariantOk m e = !m.getLsbD 52 := if_neg (by omega)

theorem valid_iff : valid m e = true ↔
    (-1022 ≤ e ∧ e ≤ 1023 ∧ m.getLsbD 52 = true) ∨ ((e = -1023 ∨ e = 1024) ∧ m.getLsbD 52 = false) := by
  rw [valid, Bool.and_eq_true, rangeOk_iff]
  by_cases hn : -1022 ≤ e ∧ e ≤ 1023
  · have hr : -1023 ≤ e ∧ e ≤ 1024 := by omega
    have hx : ¬ (e = -1023 ∨ e = 1024) := by omega
    simp [invariantOk_of_normal hn, hr, hx, hn]
  · have hr : -1023 ≤ e ∧ e ≤ 1024 ↔ e = -1023 ∨ e = 1024 := by omega
    rw [hr]
    by_cases hx : e = -1023 ∨ e = 1024
    · simp [invariantOk_of_exceptional hx, hx, ← and_assoc, hn]
    · simp [hx, ← and_assoc, hn]

end Valid

/-! ### Split (R224) -/

theorem split_ext {a b : Split} (hs : a.sign = b.sign) (hm : a.mantissa = b.mantissa) (he : a.exponent = b.exponent)
    (hx : a.isExceptional = b.isExceptional) : a = b := by
  cases a; cases b; simp_all

section Split

variable {p : Word}

theorem split_sign (p : Word) : (splitBinary64 p).sign = if p.getLsbD 63 then -1 else 1 := rfl

theorem split_exponent (p : Word) : (splitBinary64 p).exponent = (biasedExponent p : Int) - 1023 := rfl

theorem mantissa_of_exceptional (h : isExceptional p = true) : (splitBinary64 p).mantissa.toNat = p.toNat % 2 ^ 52 := by
  rw [splitMantissa_toNat, if_pos h, Nat.add_zero]

theorem mantissa_of_normal (h : isExceptional p = false) :
    (splitBinary64 p).mantissa.toNat = 2 ^ 52 + p.toNat % 2 ^ 52 := by
  rw [splitMantissa_toNat, if_neg (Bool.eq_false_iff.mp h), Nat.add_comm]

theorem mantissa_mod (p : Word) : (splitBinary64 p).mantissa.toNat % 2 ^ 52 = p.toNat % 2 ^ 52 := by
  rw [splitMantissa_toNat]
  split <;> omega

/-- Bit 52 of the mantissa is the implicit bit of a normal number. -/
theorem bit52_mantissa (p : Word) : (splitBinary64 p).mantissa.getLsbD 52 = !isExceptional p := by
  have hbit := toNat_bit52 (splitBinary64 p).mantissa
  cases h : isExceptional p
  · rw [mantissa_of_normal h] at hbit
    exact Bool.toNat_eq_one.mp (by omega)
  · rw [mantissa_of_exceptional h] at hbit
    exact Bool.toNat_eq_zero.mp (by omega)

/-- R226: split returns a valid triple, whatever the pattern. -/
theorem valid_split (p : Word) : valid (splitBinary64 p).mantissa (splitBinary64 p).exponent = true := by
  have hlt := biasedExponent_lt p
  have hexp := split_exponent p
  rw [valid_iff, bit52_mantissa]
  cases h : isExceptional p
  · rw [isExceptional_eq_false_iff] at h
    exact .inl ⟨by omega, by omega, rfl⟩
  · rw [isExceptional_iff] at h
    exact .inr ⟨by omega, rfl⟩

end Split

/-- Settles O55: the class fixes the exponent field, and with it `isExceptional`, the exponent and the mantissa's form. -/
theorem splitPerClass : Obligations.SplitPerClass := by
  intro p
  have hlt := biasedExponent_lt p
  have hexp := split_exponent p
  have hexc : biasedExponent p = 0 ∨ biasedExponent p = 2047 → isExceptional p = true := isExceptional_iff.mpr
  obtain ⟨hzero, hsubnormal, hnormal, hinfinity, hnan⟩ := classify_iff p
  refine ⟨split_sign p, fun h => ?_, fun h => ?_, fun h => ?_, fun h => ?_, fun h => ?_, valid_split p⟩
  · obtain ⟨hE, hf⟩ := hzero.mp h
    exact ⟨hexc (.inl hE), by omega, (mantissa_of_exceptional (hexc (.inl hE))).trans hf⟩
  · obtain ⟨hE, hf⟩ := hsubnormal.mp h
    exact ⟨hexc (.inl hE), by omega, mantissa_of_exceptional (hexc (.inl hE)), hf⟩
  · obtain ⟨hE, hE'⟩ := hnormal.mp h
    have hn : isExceptional p = false := isExceptional_eq_false_iff.mpr (by omega)
    exact ⟨hn, by omega, by omega, mantissa_of_normal hn⟩
  · obtain ⟨hE, hf⟩ := hinfinity.mp h
    exact ⟨hexc (.inr hE), by omega, (mantissa_of_exceptional (hexc (.inr hE))).trans hf⟩
  · obtain ⟨hE, hf⟩ := hnan.mp h
    exact ⟨hexc (.inr hE), by omega, mantissa_of_exceptional (hexc (.inr hE)), hf⟩

/-! ### Build (R222), and build and split together (R227) -/

section Build

variable (b : Bool) (m : Word) (e : Int)

theorem sign_build : (buildBinary64 b m e).getLsbD 63 = b := by
  have hsign := toNat_sign (buildBinary64 b m e)
  have hbuild := buildBinary64_toNat b m e
  rw [Bool.eq_iff_iff, ← Bool.toNat_eq_one, ← Bool.toNat_eq_one]
  omega

theorem biasedExponent_build : (biasedExponent (buildBinary64 b m e) : Int) = (e + 1023) % 2048 := by
  have hbuild := buildBinary64_toNat b m e
  have := Bool.toNat_le b
  rw [biasedExponent_eq]
  omega

theorem fraction_build : (buildBinary64 b m e).toNat % 2 ^ 52 = m.toNat % 2 ^ 52 := by
  have hbuild := buildBinary64_toNat b m e
  omega

variable {b m e}

theorem isExceptional_build_iff (hlo : -1023 ≤ e) (hhi : e ≤ 1024) :
    isExceptional (buildBinary64 b m e) = true ↔ e = -1023 ∨ e = 1024 := by
  have hE := biasedExponent_build b m e
  rw [isExceptional_iff]
  omega

theorem isExceptional_build_of_normal (hlo : -1022 ≤ e) (hhi : e ≤ 1023) : isExceptional (buildBinary64 b m e) = false :=
  Bool.eq_false_iff.mpr (mt (isExceptional_build_iff (by omega) (by omega)).mp (by omega))

/-- The exponent of a triple comes back when the exponent field can hold it, the sign always; `hx` and `hm` say what is left to show
of the other two components. -/
theorem split_build {x : Bool} (hlo : -1023 ≤ e) (hhi : e ≤ 1024) (hx : isExceptional (buildBinary64 b m e) = x)
    (hm : (splitBinary64 (buildBinary64 b m e)).mantissa.toNat = m.toNat) :
    splitBinary64 (buildBinary64 b m e) = ⟨if b then -1 else 1, m, e, x⟩ := by
  have hE := biasedExponent_build b m e
  refine split_ext ?_ (BitVec.eq_of_toNat_eq hm) ?_ hx
  · rw [split_sign, sign_build]
  · rw [split_exponent, hE]
    show (e + 1023) % 2048 - 1023 = e
    omega

/-- R227 (a), for a mantissa of any width. -/
theorem mantissa_split_build (hlo : -1022 ≤ e) (hhi : e ≤ 1023) (hm : m.getLsbD 52 = true) :
    (splitBinary64 (buildBinary64 b m e)).mantissa.toNat = m.toNat % 2 ^ 53 := by
  have hbit := toNat_bit52 m
  rw [hm, Bool.toNat_true] at hbit
  rw [mantissa_of_normal (isExceptional_build_of_normal hlo hhi), fraction_build]
  omega

/-- R227 (a). -/
theorem split_build_normal (hlo : -1022 ≤ e) (hhi : e ≤ 1023) (hm : m.getLsbD 52 = true) (hlt : m.toNat < 2 ^ 53) :
    splitBinary64 (buildBinary64 b m e) = ⟨if b then -1 else 1, m, e, false⟩ :=
  split_build (by omega) (by omega) (isExceptional_build_of_normal hlo hhi)
    ((mantissa_split_build hlo hhi hm).trans (Nat.mod_eq_of_lt hlt))

/-- R227 (c). -/
theorem split_build_exceptional (he : e = -1023 ∨ e = 1024) (hlt : m.toNat < 2 ^ 52) :
    splitBinary64 (buildBinary64 b m e) = ⟨if b then -1 else 1, m, e, true⟩ := by
  have hx : isExceptional (buildBinary64 b m e) = true := (isExceptional_build_iff (by omega) (by omega)).mpr he
  refine split_build (by omega) (by omega) hx ?_
  rw [mantissa_of_exceptional hx, fraction_build, Nat.mod_eq_of_lt hlt]

/-- R227 (b): build puts each component back in its place. -/
theorem build_split {p : Word} (hb : b = p.getLsbD 63) :
    buildBinary64 b (splitBinary64 p).mantissa (splitBinary64 p).exponent = p := by
  refine pattern_eq_of_fields ((sign_build ..).trans hb) ?_ ((fraction_build ..).trans (mantissa_mod p))
  have hE := biasedExponent_build b (splitBinary64 p).mantissa (splitBinary64 p).exponent
  have hexp := split_exponent p
  have hlt := biasedExponent_lt p
  omega

end Build

theorem decide_sign_eq (p : Word) : decide ((splitBinary64 p).sign = -1) = p.getLsbD 63 := by
  rw [split_sign]
  cases p.getLsbD 63 <;> rfl

/-- Settles O56: part (d) is one triple, and a wider mantissa loses its bits 63 to 53. -/
theorem roundTrips : Obligations.RoundTrips :=
  ⟨fun _ _ _ hlo hhi hm => ⟨split_build_normal hlo hhi hm, mantissa_split_build hlo hhi hm⟩,
    fun p => build_split (decide_sign_eq p), fun _ _ _ => split_build_exceptional, by decide, by decide⟩

/-! ### The commands that build (R228, R229) -/

section BuildCommands

variable {rd ra rb rc : Reg} {s : State}

/-- The pattern that `BUILD` writes. -/
theorem toNat_built (s : State) (ra rb rc : Reg) :
    ((buildBinary64 (s.readSign ra) (s.readX rb) (s.readExponent rc)).toNat : Int) = builtNumber s ra rb rc := by
  rw [buildBinary64_toNat, State.readSign, toNat_sign]
  rfl

theorem completes_build (rd ra rb rc : Reg) (s : State) : Completes (.build rd ra rb rc) s rd
    (buildBinary64 (s.readSign ra) (s.readX rb) (s.readExponent rc)) := completes_of_writeResult rfl

/-- The checks passed, `BUILDC` is `BUILD`. -/
theorem completes_buildc (h : valid (s.readX rb) (s.readExponent rc) = true) : Completes (.buildc rd ra rb rc) s rd
    (buildBinary64 (s.readSign ra) (s.readX rb) (s.readExponent rc)) := completes_of_writeResult (execBuildc_valid h)

/-- A command that ends by `raise` has only answered the fault's code (R259). -/
theorem answersOnly_of_raise {i : Instr} {f : FaultKind} (h : exec i s = raise f s) :
    ∃ t, exec i s = .next t ∧ AnswersOnly s t f.code 0 :=
  ⟨_, h.trans (raise_next.mpr rfl), fun _ => rfl, rfl, rfl⟩

end BuildCommands

/-- Settles O50: the written pattern, as a number, is what the statement calls `builtNumber`. -/
theorem buildIsUnchecked : Obligations.BuildIsUnchecked := by
  refine ⟨fun b m e => ?_, fun rd ra rb rc s =>
    ⟨decode_cwR 0x70 rd ra rb rc rfl, _, completes_build rd ra rb rc s, toNat_built s ra rb rc⟩⟩
  rw [buildBinary64_toNat]
  cases b <;> rfl

/-- Settles O51: a valid triple passes both checks; of an invalid one the range is checked first, bit 52 after it. -/
theorem checkedBuild : Obligations.CheckedBuild := by
  refine fun rd ra rb rc s => ⟨decode_cwR 0x71 rd ra rb rc rfl, fun h => ?_, fun h => ?_, fun h => ?_⟩
  · exact ⟨_, completes_buildc (valid_iff.mpr h), completes_build rd ra rb rc s, toNat_built s ra rb rc⟩
  · refine answersOnly_of_raise (f := .rangeError) (execBuildc_range ?_)
    exact Bool.eq_false_iff.mpr (mt rangeOk_iff.mp (by rw [State.readExponent]; omega))
  · refine answersOnly_of_raise (f := .invariantViolation) (execBuildc_invariant ?_ ?_)
    · exact rangeOk_iff.mpr (by rw [State.readExponent]; omega)
    · obtain ⟨hlo, hhi, hbit⟩ | ⟨he, hbit⟩ := h
      · exact (invariantOk_of_normal ⟨hlo, hhi⟩).trans hbit
      · exact (invariantOk_of_exceptional he).trans (congrArg not hbit)

/-! ### The commands that split (R230 to R234) -/

section SplitCommands

variable (rd ra : Reg) (s : State)

theorem completes_fsign : Completes (.fsign rd ra) s rd (bits64 (splitBinary64 (s.readX ra)).sign) :=
  completes_of_writeResult rfl

theorem completes_fmant : Completes (.fmant rd ra) s rd (splitBinary64 (s.readX ra)).mantissa :=
  completes_of_writeResult rfl

theorem completes_fexp : Completes (.fexp rd ra) s rd (bits64 (splitBinary64 (s.readX ra)).exponent) :=
  completes_of_writeResult rfl

theorem completes_fexc : Completes (.fexc rd ra) s rd (truth (splitBinary64 (s.readX ra)).isExceptional) :=
  completes_of_writeResult rfl

theorem completes_fnrm : Completes (.fnrm rd ra) s rd (truth !(splitBinary64 (s.readX ra)).isExceptional) :=
  completes_of_writeResult (congrArg (fun b => writeResult rd (truth b) s) (decide_normal_eq (s.readX ra)))

end SplitCommands

/-- The exponent is a register value, so its signed reading is the exponent (R224, R232). -/
theorem toInt_bits64_exponent (p : Word) :
    (bits64 (splitBinary64 p).exponent).toInt = (splitBinary64 p).exponent := by
  have hlt := biasedExponent_lt p
  have hexp := split_exponent p
  exact BitVec.toInt_ofInt_eq_self (by decide) (by omega) (by omega)

/-- The two sign values of R230, by the sign bit. -/
theorem bits64_sign_eq (p : Word) :
    bits64 (splitBinary64 p).sign = if p.toNat < 2 ^ 63 then 1 else 0xFFFFFFFFFFFFFFFF#64 := by
  rw [split_sign]
  obtain ⟨hbit, hlt, -⟩ | ⟨hbit, hle, -⟩ := sign_cases p
  · rw [hbit, if_pos hlt]; rfl
  · rw [hbit, if_neg hle.not_gt]; rfl

theorem getLsbD_bits64_sign (b : Bool) : (bits64 (if b then -1 else 1)).getLsbD 63 = b := by
  cases b <;> rfl

/-- Settles O53: each command writes its component, and the component is a number of the fields. -/
theorem splitComponents : Obligations.SplitComponents := by
  refine fun rd ra s => ⟨⟨decode_cwR 0x72 rd ra 0 0 rfl, bits64_sign_eq _ ▸ completes_fsign rd ra s⟩,
    ⟨decode_cwR 0x73 rd ra 0 0 rfl, _, completes_fmant rd ra s, ?_⟩,
    decode_cwR 0x74 rd ra 0 0 rfl, _, completes_fexp rd ra s, ?_⟩
  · rw [splitMantissa_toNat, expField_eq]
    simp only [isExceptional_iff]
  · rw [toInt_bits64_exponent, expField_eq, split_exponent]

/-- Settles O54: both commands write a truth value of `isExceptional`. -/
theorem exceptionalAndNormal : Obligations.ExceptionalAndNormal := by
  intro rd ra s
  rw [expField_eq]
  refine ⟨⟨decode_cwR 0x75 rd ra 0 0 rfl, completes_of_truth rfl isExceptional_iff⟩,
    ⟨decode_cwR 0x76 rd ra 0 0 rfl, ?_⟩, fun n hn => isExceptional_iff_ofInt hn⟩
  rw [← ite_not]
  exact completes_of_truth rfl (by rw [decide_normal_eq, Bool.not_eq_true', isExceptional_eq_false_iff])

/-! ### Round trips by commands (R227) -/

/-- From the components of a pattern `BUILDC` builds that pattern. -/
theorem completes_buildc_of_split {p : Word} {s : State} {xd xs xm xe : Reg}
    (hs : s.readX xs = bits64 (splitBinary64 p).sign) (hm : s.readX xm = (splitBinary64 p).mantissa)
    (he : s.readX xe = bits64 (splitBinary64 p).exponent) : Completes (.buildc xd xs xm xe) s xd p := by
  have hexp : s.readExponent xe = (splitBinary64 p).exponent := by rw [State.readExponent, he, toInt_bits64_exponent]
  have hsign : s.readSign xs = p.getLsbD 63 := by
    rw [State.readSign, hs, split_sign, getLsbD_bits64_sign]
  have hvalid : valid (s.readX xm) (s.readExponent xe) = true := by rw [hm, hexp, valid_split]
  have hbuild := completes_buildc (rd := xd) (ra := xs) hvalid
  rwa [hm, hexp, build_split hsign] at hbuild

/-- Settles O57: the three components are still in their registers when `BUILDC` reads them. -/
theorem splitThenBuildIsIdentity : Obligations.SplitThenBuildIsIdentity := by
  intro xp xs xm xe xd s hsm hse hme hps hpm
  obtain ⟨t₁, h₁, hs₁, hkeep₁, -, hresp₁⟩ := completes_fsign xs xp s
  obtain ⟨t₂, h₂, hm₂, hkeep₂, -, hresp₂⟩ := completes_fmant xm xp t₁
  obtain ⟨t₃, h₃, he₃, hkeep₃, -, hresp₃⟩ := completes_fexp xe xp t₂
  rw [hkeep₁ xp hps] at hm₂
  rw [hkeep₂ xp hpm, hkeep₁ xp hps] at he₃
  obtain ⟨t₄, h₄, hd₄, -, -, hresp₄⟩ := completes_buildc_of_split (xd := xd)
    ((hkeep₃ xs hse).trans ((hkeep₂ xs hsm).trans hs₁)) ((hkeep₃ xm hme).trans hm₂) he₃
  refine ⟨t₁, t₂, t₃, t₄, h₁, h₂, h₃, h₄, hd₄, ?_⟩
  simp [hresp₄, hresp₃, hresp₂, hresp₁]

/-- Settles O58: the built pattern, which the five commands read, splits into the triple in the registers. -/
theorem buildThenSplitIsIdentity : Obligations.BuildThenSplitIsIdentity := by
  intro xs xm xe xd r s hs hlo hhi hmlo hmhi
  have hbit : (s.readX xm).getLsbD 52 = true := by
    have := toNat_bit52 (s.readX xm)
    exact Bool.toNat_eq_one.mp (by omega)
  obtain ⟨t, ht, hread, -⟩ := completes_buildc (rd := xd) (ra := xs) (valid_iff.mpr (.inl ⟨hlo, hhi, hbit⟩))
  have hsplit := split_build_normal (b := s.readSign xs) hlo hhi hbit hmhi
  have hsign : bits64 (if s.readSign xs then -1 else 1) = s.readX xs := by
    obtain h | h := hs <;> rw [State.readSign, h] <;> rfl
  have hexp : bits64 (s.readX xe).toInt = s.readX xe := BitVec.ofInt_toInt
  have hfsign := completes_fsign r xd t
  have hfmant := completes_fmant r xd t
  have hfexp := completes_fexp r xd t
  have hfexc := completes_fexc r xd t
  have hfnrm := completes_fnrm r xd t
  rw [hread, State.readExponent, hsplit] at hfsign hfmant hfexp hfexc hfnrm
  exact ⟨t, ht, hsign ▸ hfsign, hfmant, hexp ▸ hfexp, hfexc, hfnrm⟩

end Sys2Proof.Proofs
end

section
/-! PROOFS. The statements about faults and the idle unit (spec/60_exceptions.md R250 to R260, R263). -/

namespace Sys2Proof.Proofs

open Sys2Proof.Machine Sys2Proof.Claims

/-! ### The idle unit (R263) -/

/-- Settles O10: with nothing presented there is nothing to handle. -/
theorem idleStepHoldsTheState : Obligations.IdleStepHoldsTheState := fun _ => step_idle

/-! ### Which command faults (R250) -/

/-- R32: the command that can fault once its word has decoded. -/
theorem canFault_iff (i : Instr) : i.canFault = true ↔ ∃ rd ra rb rc, i = .buildc rd ra rb rc := by
  cases i <;> simp [Instr.canFault]

/-- Of the five ways in which a command can end, only `raise` has a status other than 0, and only `sendData` has data. -/
theorem exec_succeeds {i : Instr} (hi : i.canFault = false) (s : State) : ∃ t v, exec i s = .next t ∧
    t.responses = s.responses ++ [⟨0, v⟩] ∧ (v ≠ 0 → i.setsDout = true) := by
  obtain ⟨rd, v, -, -, -, h⟩ | ⟨rd, v, c, -, -, -, h⟩ | ⟨c, -, -, -, h⟩ | ⟨v, -, -, hsets, h⟩ | ⟨f, hfault, -⟩ :=
    exec_shape i s
  · exact ⟨_, 0, h.trans (writeResult_next.mpr rfl), rfl, absurd rfl⟩
  · exact ⟨_, 0, h.trans (writeResultCF_next.mpr rfl), rfl, absurd rfl⟩
  · exact ⟨_, 0, h.trans (writeFlag_next.mpr rfl), rfl, absurd rfl⟩
  · exact ⟨_, v, h.trans (sendData_next.mpr rfl), rfl, fun _ => hsets⟩
  · exact absurd (hi.symm.trans hfault) Bool.false_ne_true

/-- `BUILDC` fails one of its two checks or is `BUILD` (R229, R258). -/
theorem execBuildc_cases (rd ra rb rc : Reg) (s : State) :
    (∃ f : FaultKind, (f.code = 2 ∨ f.code = 3) ∧ execBuildc rd ra rb rc s = raise f s) ∨
      execBuildc rd ra rb rc s = execBuild rd ra rb rc s := by
  cases hr : rangeOk (s.readExponent rc) with
  | false => exact .inl ⟨.rangeError, .inl rfl, execBuildc_range hr⟩
  | true =>
    cases hi : invariantOk (s.readX rb) (s.readExponent rc) with
    | false => exact .inl ⟨.invariantViolation, .inr rfl, execBuildc_invariant hr hi⟩
    | true => exact .inr (execBuildc_valid (by rw [valid, hr, hi, Bool.and_self]))

/-- Settles O21: every command but `BUILDC` succeeds, and `BUILDC` succeeds as `BUILD` does or raises one of its two faults. -/
theorem onlyBuildcFaultsAndOnlyRdvSendsData : Obligations.OnlyBuildcFaultsAndOnlyRdvSendsData := by
  intro i s
  cases hi : i.canFault with
  | false =>
    obtain ⟨t, v, ht, hr, hv⟩ := exec_succeeds hi s
    exact ⟨t, ⟨0, v⟩, ht, hr, absurd rfl, fun hne => (setsDout_iff i).mp (hv hne)⟩
  | true =>
    obtain ⟨rd, ra, rb, rc, rfl⟩ := (canFault_iff i).mp hi
    obtain ⟨f, hf, h⟩ | h := execBuildc_cases rd ra rb rc s
    · obtain ⟨t, ht, hx, hcf, hr⟩ := answersOnly_of_raise (i := .buildc rd ra rb rc) h
      exact ⟨t, ⟨f.code, 0⟩, ht, hr, fun _ => ⟨⟨rd, ra, rb, rc, rfl⟩, hf, hx, hcf, hr⟩, absurd rfl⟩
    · obtain ⟨t, ht, -, -, -, hr⟩ := completes_of_writeResult (i := .buildc rd ra rb rc) h
      exact ⟨t, ⟨0, 0⟩, ht, hr, absurd rfl, absurd rfl⟩

/-! ### Faults at the command port (R252, R253) -/

section Port

variable {s t : State} {c : Command} {rest : List HostEvent}

/-- Accepting a command changes neither a register nor `CF` and answers nothing. -/
theorem answersOnly_accept {status : BitVec 2} {dout : Word} :
    AnswersOnly (s.accept c rest) t status dout ↔ AnswersOnly s t status dout := Iff.rfl

/-- What a decoded command only answers, the step that presents it only answers. -/
theorem step_answersOnly {i : Instr} {status : BitVec 2} {dout : Word} (hp : s.pending = .command c :: rest)
    (hd : decode c.cw = .ok i) (h : ∃ t, exec i (s.accept c rest) = .next t ∧ AnswersOnly (s.accept c rest) t status dout) :
    ∃ t, step s = .next t ∧ AnswersOnly s t status dout := by
  obtain ⟨t, ht, ha⟩ := h
  exact ⟨t, (step_command hp hd).trans ht, answersOnly_accept.mp ha⟩

/-- R259: a presented command gives one response; with a status other than 0 it has answered that status and done nothing else. -/
theorem step_command_answers (hp : s.pending = .command c :: rest) : ∃ t r, step s = .next t ∧ t.pending = rest ∧
    t.responses = s.responses ++ [r] ∧ (r.status ≠ 0 → AnswersOnly s t r.status 0) := by
  cases hd : decode c.cw with
  | error e =>
    exact ⟨_, ⟨FaultKind.illegalCommand.code, 0⟩, (step_illegal hp hd).trans (raise_next.mpr rfl), rfl, rfl,
      fun _ => ⟨fun _ => rfl, rfl, rfl⟩⟩
  | ok i =>
    obtain ⟨t, r, ht, hr, hfault, -⟩ := onlyBuildcFaultsAndOnlyRdvSendsData i (s.accept c rest)
    obtain ⟨-, -, -, hpending, -⟩ := frameOfEveryCommand i (s.accept c rest) t ht
    refine ⟨t, r, (step_command hp hd).trans ht, hpending, hr, fun hstatus => ?_⟩
    obtain ⟨-, -, ha⟩ := hfault hstatus
    exact answersOnly_accept.mp ha

end Port

/-- Settles O52: the checks of `BUILDC` as O51 states them, in the state that has accepted the command. -/
theorem buildcFaultsAreReported : Obligations.BuildcFaultsAreReported := by
  intro rd ra rb rc din rest s hp
  obtain ⟨hd, -, hrange, hinv⟩ := checkedBuild rd ra rb rc (s.accept ⟨cwR 0x71 rd ra rb rc, din⟩ rest)
  refine ⟨fun h => step_answersOnly hp hd (hrange h), fun h => step_answersOnly hp hd (hinv ?_)⟩
  exact h.imp (fun ⟨hbit, hlo, hhi⟩ => ⟨hlo, hhi, hbit⟩) And.symm

/-! ### After a fault (R259, R260) -/

/-- R30 for every event that can wait: from the same registers, `CF` and waiting events a step gives the same registers, the same
`CF` and the same responses, whatever has been answered before and whatever is on the data-in port. -/
theorem step_congr_unit {s₁ s₂ : State} (hx : s₁.x = s₂.x) (hcf : s₁.cf = s₂.cf) (hp : s₁.pending = s₂.pending) :
    ∃ t₁ t₂ more, step s₁ = .next t₁ ∧ step s₂ = .next t₂ ∧ t₁.x = t₂.x ∧ t₁.cf = t₂.cf ∧
      t₁.responses = s₁.responses ++ more ∧ t₂.responses = s₂.responses ++ more := by
  cases hp₂ : s₂.pending with
  | nil =>
    exact ⟨s₁, s₂, [], step_idle (hp.trans hp₂), step_idle hp₂, hx, hcf, (List.append_nil _).symm, (List.append_nil _).symm⟩
  | cons event rest =>
    cases event with
    | reset lost =>
      exact ⟨_, _, [], step_reset (hp.trans hp₂), step_reset hp₂, rfl, rfl, (List.append_nil _).symm,
        (List.append_nil _).symm⟩
    | command c =>
      obtain ⟨t₁, t₂, r, h⟩ := resultDependsOnUnitStateOnly s₁ s₂ c rest rest hx hcf (hp.trans hp₂) hp₂
      exact ⟨t₁, t₂, [r], h⟩

/-- Settles O17: the fault leaves the registers, `CF` and the events behind the command, which are all that the next step reads. -/
theorem faultLeavesNoTrace : Obligations.FaultLeavesNoTrace := by
  intro s t u c rest r hp ht hr hstatus hu
  obtain ⟨t', r', ht', hpending, hr', hfault⟩ := step_command_answers hp
  obtain rfl : t' = t := Host.Outcome.next.inj (ht'.symm.trans ht)
  obtain rfl : r' = r := List.singleton_inj.mp (List.append_cancel_left (hr'.symm.trans hr))
  obtain ⟨hx, hcf, hanswer⟩ := hfault hstatus
  have hdout : r' = ⟨r'.status, 0⟩ := List.singleton_inj.mp (List.append_cancel_left (hr.symm.trans hanswer))
  obtain ⟨v, u', more, hv, hu', hxs, hcfs, hmore, hmore'⟩ :=
    step_congr_unit (s₁ := t') (s₂ := { s with pending := rest }) (x_ext hx) hcf hpending
  obtain rfl : u' = u := Host.Outcome.next.inj (hu'.symm.trans hu)
  exact ⟨hx, hcf, congrArg Response.dout hdout, v, more, hv, hxs, hcfs, hmore, hmore'⟩

end Sys2Proof.Proofs
end

section
/-! PROOFS. The statement about the reset event (spec/70_reset_and_hazards.md R280). -/

namespace Sys2Proof.Proofs

open Sys2Proof.Machine Sys2Proof.Claims

/-- Settles O11: the step is `resetUnit` with the event taken off the list, and what the event caught is never looked at. -/
theorem resetEventClearsTheUnit : Obligations.ResetEventClearsTheUnit := by
  intro s lost rest hp
  exact ⟨{ s.resetUnit with pending := rest }, step_reset hp, readX_resetUnit s, resetUnit_cf s, resetUnit_responses s, rfl⟩

end Sys2Proof.Proofs
end
